-- ==== Sys2Proof/Word.lean ====
section
/-! DEFINITION. The word types of the hardware (00_scope.md R6, R11). -/

namespace Sys2Proof

/-- A 4-bit field of an instruction word: a register index `X`, `Y` or a row count `N` (R66). -/
abbrev Nibble := BitVec 4

/-- A memory byte, a general register, a timer (R6). -/
abbrev Byte := BitVec 8

/-- The 12-bit address immediate `NNN` (R66). -/
abbrev Addr12 := BitVec 12

/-- An instruction word, `I`, `PC`, a stack entry, a keypad snapshot (R6). -/
abbrev Word := BitVec 16

end Sys2Proof
end

