-- ==== Sys2Proof/Machine/Flags.lean ====
section
/-! DEFINITION. The flag computations that go into `VF` (10_state.md R22, 42_alu.md R110). -/

namespace Sys2Proof.Machine

/-- `[c]`: 1 when `c` holds and 0 otherwise (00_scope.md R12). -/
def flagByte (c : Bool) : Byte := if c then 1#8 else 0#8

/-- Carry-out of the exact sum: 1 when it exceeds 255 (R117). -/
def carryFlag (a b : Byte) : Byte := flagByte (decide (255 < a.toNat + b.toNat))

/-- No borrow: 1 when the minuend is at least the subtrahend, that is when the exact difference is not negative
(R118, R120). -/
def noBorrowFlag (minuend subtrahend : Byte) : Byte := flagByte (decide (subtrahend.toNat ≤ minuend.toNat))

/-- The bit a right shift puts out: bit 0 (R119). -/
def shiftOutLow (a : Byte) : Byte := a &&& 1#8

/-- The bit a left shift puts out: bit 7 (R121). -/
def shiftOutHigh (a : Byte) : Byte := a >>> 7

end Sys2Proof.Machine
end

