-- ==== Sys2Proof/Syntax.lean ====
section
/-! DEFINITION. The instructions: one constructor per row of spec/opcode_table.json (00_scope.md R2). -/

namespace Sys2Proof

/-- The 35 instructions of the opcode table, in its order, with their fields (30_encoding.md R66, R69). -/
inductive Instr where
  /-- `00E0` CLS (R140). -/
  | cls
  /-- `00EE` RET (R89). -/
  | ret
  /-- `0NNN` SYS nnn, ignored (R88). -/
  | sys (nnn : Addr12)
  /-- `1NNN` JP nnn (R90). -/
  | jp (nnn : Addr12)
  /-- `2NNN` CALL nnn (R91). -/
  | call (nnn : Addr12)
  /-- `3XNN` SE Vx, nn (R101). -/
  | seImm (x : Nibble) (nn : Byte)
  /-- `4XNN` SNE Vx, nn (R102). -/
  | sneImm (x : Nibble) (nn : Byte)
  /-- `5XY0` SE Vx, Vy (R103). -/
  | seReg (x y : Nibble)
  /-- `6XNN` LD Vx, nn (R111). -/
  | ldImm (x : Nibble) (nn : Byte)
  /-- `7XNN` ADD Vx, nn (R112). -/
  | addImm (x : Nibble) (nn : Byte)
  /-- `8XY0` LD Vx, Vy (R113). -/
  | ldReg (x y : Nibble)
  /-- `8XY1` OR Vx, Vy (R114). -/
  | orReg (x y : Nibble)
  /-- `8XY2` AND Vx, Vy (R115). -/
  | andReg (x y : Nibble)
  /-- `8XY3` XOR Vx, Vy (R116). -/
  | xorReg (x y : Nibble)
  /-- `8XY4` ADD Vx, Vy (R117). -/
  | addReg (x y : Nibble)
  /-- `8XY5` SUB Vx, Vy (R118). -/
  | subReg (x y : Nibble)
  /-- `8XY6` SHR Vx; `y` is decoded and ignored (R119). -/
  | shr (x y : Nibble)
  /-- `8XY7` SUBN Vx, Vy (R120). -/
  | subnReg (x y : Nibble)
  /-- `8XYE` SHL Vx; `y` is decoded and ignored (R121). -/
  | shl (x y : Nibble)
  /-- `9XY0` SNE Vx, Vy (R104). -/
  | sneReg (x y : Nibble)
  /-- `ANNN` LD I, nnn (R130). -/
  | ldI (nnn : Addr12)
  /-- `BNNN` JP V0, nnn (R92). -/
  | jpV0 (nnn : Addr12)
  /-- `CXNN` RND Vx, nn (R122). -/
  | rnd (x : Nibble) (nn : Byte)
  /-- `DXYN` DRW Vx, Vy, n (R141). -/
  | drw (x y n : Nibble)
  /-- `EX9E` SKP Vx (R105). -/
  | skp (x : Nibble)
  /-- `EXA1` SKNP Vx (R106). -/
  | sknp (x : Nibble)
  /-- `FX07` LD Vx, DT (R150). -/
  | ldVxDt (x : Nibble)
  /-- `FX0A` LD Vx, K (R151). -/
  | ldVxK (x : Nibble)
  /-- `FX15` LD DT, Vx (R152). -/
  | ldDtVx (x : Nibble)
  /-- `FX18` LD ST, Vx (R153). -/
  | ldStVx (x : Nibble)
  /-- `FX1E` ADD I, Vx (R131). -/
  | addI (x : Nibble)
  /-- `FX29` LD F, Vx (R132). -/
  | ldF (x : Nibble)
  /-- `FX33` LD B, Vx (R133). -/
  | ldB (x : Nibble)
  /-- `FX55` LD [I], Vx (R134). -/
  | ldMemVx (x : Nibble)
  /-- `FX65` LD Vx, [I] (R135). -/
  | ldVxMem (x : Nibble)
  deriving DecidableEq, Repr

end Sys2Proof
end

