-- ==== Sys2Proof/Decode.lean ====
section
/-! DEFINITION. Decoding of instruction words (30_encoding.md R65 to R73) and, after it, the encoder. -/

namespace Sys2Proof

/-! ### Fields of the instruction word (R66) -/

/-- `op` = `w[15:12]`. -/
def opField (w : Word) : Nibble := w.extractLsb' 12 4

/-- `X` = `w[11:8]`. -/
def xField (w : Word) : Nibble := w.extractLsb' 8 4

/-- `Y` = `w[7:4]`. -/
def yField (w : Word) : Nibble := w.extractLsb' 4 4

/-- `N` = `w[3:0]`. -/
def nField (w : Word) : Nibble := w.extractLsb' 0 4

/-- `NN` = `w[7:0]`. -/
def nnField (w : Word) : Byte := w.extractLsb' 0 8

/-- `NNN` = `w[11:0]`. -/
def nnnField (w : Word) : Addr12 := w.extractLsb' 0 12

/-! ### Decode -/

/-- Why bytes are no instruction of `Instr`, by name. The first five are the sets of R71's table other than `0NNN` (whose
words are `Instr.sys`): each executes as the no-op of R88. `tooShort` is not a word at all: fewer than two bytes. -/
inductive Unrecognised where
  /-- `5XYn`, `n` in 1..F. -/
  | op5
  /-- `8XYn`, `n` in 8, 9, A, B, C, D, F. -/
  | op8
  /-- `9XYn`, `n` in 1..F. -/
  | op9
  /-- `EXnn`, `nn` neither 9E nor A1. -/
  | opE
  /-- `FXnn`, `nn` not one of the nine listed bytes. -/
  | opF
  /-- Fewer than two bytes were given; the fetch never does this. -/
  | tooShort
  deriving DecidableEq, Repr

/-- `op` = 0 (R69): `00E0`, `00EE`, any other word `0NNN`. -/
def decodeSys (w : Word) : Instr :=
  if w = 0x00E0#16 then .cls else if w = 0x00EE#16 then .ret else .sys (nnnField w)

/-- `op` = 8 (R69): `N` selects; 8, 9, A..D and F are unrecognised (R70). -/
def decodeAlu (w : Word) : Except Unrecognised Instr :=
  let x := xField w
  let y := yField w
  match (nField w).toNat with
  | 0x0 => .ok (.ldReg x y)
  | 0x1 => .ok (.orReg x y)
  | 0x2 => .ok (.andReg x y)
  | 0x3 => .ok (.xorReg x y)
  | 0x4 => .ok (.addReg x y)
  | 0x5 => .ok (.subReg x y)
  | 0x6 => .ok (.shr x y)
  | 0x7 => .ok (.subnReg x y)
  | 0xE => .ok (.shl x y)
  | _ => .error .op8

/-- `op` = E (R69): `NN` selects. -/
def decodeKey (w : Word) : Except Unrecognised Instr :=
  match (nnField w).toNat with
  | 0x9E => .ok (.skp (xField w))
  | 0xA1 => .ok (.sknp (xField w))
  | _ => .error .opE

/-- `op` = F (R69): `NN` selects. -/
def decodeMisc (w : Word) : Except Unrecognised Instr :=
  let x := xField w
  match (nnField w).toNat with
  | 0x07 => .ok (.ldVxDt x)
  | 0x0A => .ok (.ldVxK x)
  | 0x15 => .ok (.ldDtVx x)
  | 0x18 => .ok (.ldStVx x)
  | 0x1E => .ok (.addI x)
  | 0x29 => .ok (.ldF x)
  | 0x33 => .ok (.ldB x)
  | 0x55 => .ok (.ldMemVx x)
  | 0x65 => .ok (.ldVxMem x)
  | _ => .error .opF

/-- The decode map of R69: the high nibble, then the low nibble or low byte. Total: every word is an instruction or an
unrecognised word by name (R70 to R72). The last arm is `op` = F, the one value of a nibble the others leave. -/
def decode (w : Word) : Except Unrecognised Instr :=
  let x := xField w
  let y := yField w
  match (opField w).toNat with
  | 0x0 => .ok (decodeSys w)
  | 0x1 => .ok (.jp (nnnField w))
  | 0x2 => .ok (.call (nnnField w))
  | 0x3 => .ok (.seImm x (nnField w))
  | 0x4 => .ok (.sneImm x (nnField w))
  | 0x5 => if nField w = 0#4 then .ok (.seReg x y) else .error .op5
  | 0x6 => .ok (.ldImm x (nnField w))
  | 0x7 => .ok (.addImm x (nnField w))
  | 0x8 => decodeAlu w
  | 0x9 => if nField w = 0#4 then .ok (.sneReg x y) else .error .op9
  | 0xA => .ok (.ldI (nnnField w))
  | 0xB => .ok (.jpV0 (nnnField w))
  | 0xC => .ok (.rnd x (nnField w))
  | 0xD => .ok (.drw x y (nField w))
  | 0xE => decodeKey w
  | _ => decodeMisc w

/-! ### Words and bytes (20_memory.md R50) -/

/-- The big-endian word of two bytes: the byte at the lower address is bits 15:8 (R50). -/
def wordOfBytes (hi lo : Byte) : Word := (hi ++ lo : BitVec (8 + 8))

/-- The byte of a word that lies at the lower address (R50). -/
def highByte (w : Word) : Byte := w.extractLsb' 8 8

/-- The byte of a word that lies at the higher address (R50). -/
def lowByte (w : Word) : Byte := w.extractLsb' 0 8

/-- A word as memory holds it, lowest address first. -/
def bytesOfWord (w : Word) : List Byte := [highByte w, lowByte w]

/-- Decode the instruction at the head of a byte sequence; every instruction is two bytes (R65). -/
def decodeBytes (bs : List Byte) : Except Unrecognised (Instr × List Byte) :=
  match bs with
  | hi :: lo :: rest =>
    match decode (wordOfBytes hi lo) with
    | .ok i => .ok (i, rest)
    | .error u => .error u
  | _ => .error .tooShort

/-- The instruction the decoder reads from a word whose bits are `w`, numbered as spec/opcode_table.json numbers them; the
bits above `nbits` are 0. -/
def decodeTableWord (nbits w : Nat) : Option Instr :=
  match decodeBytes (bytesOfWord (BitVec.ofNat 16 (w % 2 ^ nbits))) with
  | .ok (i, _) => some i
  | .error _ => none

/-! ### Encode: the same tables, read the other way (30_encoding.md R66, R69) -/

/-- The word with nibbles `op`, `X`, `Y`, `N` from bit 15 down. -/
def packXYN (op x y n : Nibble) : Word := (op ++ x ++ y ++ n : BitVec (4 + 4 + 4 + 4))

/-- The word with `op`, `X` and the low byte `NN`. -/
def packXNN (op x : Nibble) (nn : Byte) : Word := (op ++ x ++ nn : BitVec (4 + 4 + 8))

/-- The word with `op` and `NNN`. -/
def packNNN (op : Nibble) (nnn : Addr12) : Word := (op ++ nnn : BitVec (4 + 12))

/-- The word of an instruction (R69). -/
def encode (i : Instr) : Word :=
  match i with
  | .cls => 0x00E0#16
  | .ret => 0x00EE#16
  | .sys nnn => packNNN 0x0#4 nnn
  | .jp nnn => packNNN 0x1#4 nnn
  | .call nnn => packNNN 0x2#4 nnn
  | .seImm x nn => packXNN 0x3#4 x nn
  | .sneImm x nn => packXNN 0x4#4 x nn
  | .seReg x y => packXYN 0x5#4 x y 0x0#4
  | .ldImm x nn => packXNN 0x6#4 x nn
  | .addImm x nn => packXNN 0x7#4 x nn
  | .ldReg x y => packXYN 0x8#4 x y 0x0#4
  | .orReg x y => packXYN 0x8#4 x y 0x1#4
  | .andReg x y => packXYN 0x8#4 x y 0x2#4
  | .xorReg x y => packXYN 0x8#4 x y 0x3#4
  | .addReg x y => packXYN 0x8#4 x y 0x4#4
  | .subReg x y => packXYN 0x8#4 x y 0x5#4
  | .shr x y => packXYN 0x8#4 x y 0x6#4
  | .subnReg x y => packXYN 0x8#4 x y 0x7#4
  | .shl x y => packXYN 0x8#4 x y 0xE#4
  | .sneReg x y => packXYN 0x9#4 x y 0x0#4
  | .ldI nnn => packNNN 0xA#4 nnn
  | .jpV0 nnn => packNNN 0xB#4 nnn
  | .rnd x nn => packXNN 0xC#4 x nn
  | .drw x y n => packXYN 0xD#4 x y n
  | .skp x => packXNN 0xE#4 x 0x9E#8
  | .sknp x => packXNN 0xE#4 x 0xA1#8
  | .ldVxDt x => packXNN 0xF#4 x 0x07#8
  | .ldVxK x => packXNN 0xF#4 x 0x0A#8
  | .ldDtVx x => packXNN 0xF#4 x 0x15#8
  | .ldStVx x => packXNN 0xF#4 x 0x18#8
  | .addI x => packXNN 0xF#4 x 0x1E#8
  | .ldF x => packXNN 0xF#4 x 0x29#8
  | .ldB x => packXNN 0xF#4 x 0x33#8
  | .ldMemVx x => packXNN 0xF#4 x 0x55#8
  | .ldVxMem x => packXNN 0xF#4 x 0x65#8

end Sys2Proof
end

