-- ==== Sys2Proof/Config.lean ====
section
/-! DEFINITION. The parameters a block is built with (00_scope.md R7, R8, R9) and the free random byte
(42_alu.md R123). -/

namespace Sys2Proof

/-- The parameters of one block instance: `LOAD_OFFSET` (R7), `FONT` (R8) and the two rate periods (R9).
No instruction, tick or transaction changes them. -/
structure Config where
  /-- `LOAD_OFFSET`: where a program image is installed and where `PC` starts (R7). -/
  loadOffset : Word
  /-- `FONT`: glyph `g` is bytes `5g .. 5g+4` (R8). -/
  font : Vector Byte 80
  /-- `CPU_PERIOD_Q`: quanta per CPU step (R9). -/
  cpuPeriodQ : Nat
  /-- `TIMER_PERIOD_Q`: quanta per timer tick (R9). -/
  timerPeriodQ : Nat
  deriving DecidableEq, Repr

/-- What R7 and R9 ask of the parameters: `LOAD_OFFSET` even and in 0x050..0xFFE, both periods positive. -/
abbrev Config.wf (c : Config) : Prop :=
  c.loadOffset.toNat % 2 = 0 ∧ 0x050 ≤ c.loadOffset.toNat ∧ c.loadOffset.toNat ≤ 0xFFE ∧
    0 < c.cpuPeriodQ ∧ 0 < c.timerPeriodQ

/-- PRESUMED (log 1): the conventional CHIP-8 font, the default listed in 70_reset_and_hazards.md R190 and marked there as
not in the source. -/
def Config.conventionalFont : Vector Byte 80 := #v[
  0xF0, 0x90, 0x90, 0x90, 0xF0,  0x20, 0x60, 0x20, 0x20, 0x70,
  0xF0, 0x10, 0xF0, 0x80, 0xF0,  0xF0, 0x10, 0xF0, 0x10, 0xF0,
  0x90, 0x90, 0xF0, 0x10, 0x10,  0xF0, 0x80, 0xF0, 0x10, 0xF0,
  0xF0, 0x80, 0xF0, 0x90, 0xF0,  0xF0, 0x10, 0x20, 0x40, 0x40,
  0xF0, 0x90, 0xF0, 0x90, 0xF0,  0xF0, 0x90, 0xF0, 0x10, 0xF0,
  0xF0, 0x90, 0xF0, 0x90, 0x90,  0xE0, 0x90, 0xE0, 0x90, 0xE0,
  0xF0, 0x80, 0x80, 0x80, 0xF0,  0xE0, 0x90, 0x90, 0x90, 0xE0,
  0xF0, 0x80, 0xF0, 0x80, 0xF0,  0xF0, 0x80, 0xF0, 0x80, 0x80]

/-- PRESUMED (log 1): the parameters of `State.reset`. `LOAD_OFFSET` 0x200 and the font are the spec's defaults from general
knowledge (R7, R8); the periods 6 and 50 are the values this hardware takes (R9). -/
def Config.default : Config :=
  { loadOffset := 0x200#16, font := Config.conventionalFont, cpuPeriodQ := 6, timerPeriodQ := 50 }

/-- `Draw()` (42_alu.md R123): the byte supplied from outside the block for the `n`-th draw, under no law. A free value: it
has no body, so no proof can see it (log 2). -/
opaque Config.randomByte : Nat → Byte

end Sys2Proof
end

