-- ==== Sys2Proof/Machine/Memory.lean ====
section
/-! DEFINITION. The memory `MEM` as a canonical list of cells (20_memory.md R45, R46). -/

namespace Sys2Proof.Machine

/-- What an unlisted address reads as: its contents after reset (10_state.md R34, 20_memory.md R46): the font at
0x000..0x04F, 0 elsewhere. -/
def Memory.background (font : Vector Byte 80) (a : Nat) : Byte :=
  if h : a < 80 then font[a] else 0#8

/-- `MEM[a]`. -/
def Memory.read (font : Vector Byte 80) (m : List Host.Cell) (a : Nat) : Byte :=
  match m with
  | [] => Memory.background font a
  | c :: rest => if c.1 = a then c.2 else Memory.read font rest a

/-- `MEM[a] <- b`, keeping the canonical form: a byte equal to the reset contents is not listed. -/
def Memory.write (font : Vector Byte 80) (m : List Host.Cell) (a : Nat) (b : Byte) : List Host.Cell :=
  match m with
  | [] => if b = Memory.background font a then [] else [(a, b)]
  | c :: rest =>
    if c.1 < a then c :: Memory.write font rest a b
    else
      let tail := if c.1 = a then rest else c :: rest
      if b = Memory.background font a then tail else (a, b) :: tail

/-- Canonical form from address `lo` on: addresses strictly rising, in 0..4095, and no entry equal to what its address
reads as when unlisted. -/
def Memory.wfFrom (font : Vector Byte 80) (lo : Nat) (m : List Host.Cell) : Bool :=
  match m with
  | [] => true
  | c :: rest =>
    decide (lo ≤ c.1) && decide (c.1 < 4096) && decide (c.2 ≠ Memory.background font c.1) &&
      Memory.wfFrom font (c.1 + 1) rest

/-- The canonical form of memory. -/
def Memory.wf (font : Vector Byte 80) (m : List Host.Cell) : Bool := Memory.wfFrom font 0 m

/-- Copy bytes into memory from address `a` on (70_reset_and_hazards.md R191). The addresses are distinct, so the order of
the writes shows nowhere; the highest address is written first. -/
def Memory.copyIn (font : Vector Byte 80) (m : List Host.Cell) (a : Nat) (bytes : List Byte) : List Host.Cell :=
  match bytes with
  | [] => m
  | b :: rest => Memory.write font (Memory.copyIn font m (a + 1) rest) a b

end Sys2Proof.Machine
end

