-- ==== Sys2Proof/Machine/State.lean ====
section
/-! DEFINITION. The state of one block instance (10_state.md R20) and its reset (R34). -/

namespace Sys2Proof.Machine

/-- `FB`: 64 x 32 pixels, packed 8 per byte, row-major (10_state.md R31). -/
abbrev Framebuffer := Vector Byte 256

/-- The whole state of a block: the fields of R20, then two fields of the model's own (`draws`, `cfg`). -/
structure State where
  /-- `MEM` (R45): the bytes that differ from the reset contents, addresses strictly rising (see `Memory.wf`). -/
  mem : List Host.Cell
  /-- `V[0..15]`; `V[15]` is `VF` (R21, R22). -/
  v : Vector Byte 16
  /-- `I` (R23). -/
  i : Word
  /-- `PC` (R24). -/
  pc : Word
  /-- `STACK[0..15]` (R25). -/
  stack : Vector Word 16
  /-- `SP`, 8 bits, legal 0..16: the number of occupied stack entries (R26). -/
  sp : Byte
  /-- `DT`, the delay timer (R27). -/
  dt : Byte
  /-- `ST`, the sound timer (R28). -/
  st : Byte
  /-- `KEYPAD`: bit `k` is 1 while key `k` is pressed (R29). -/
  keypad : Word
  /-- `KEYPAD_PREV`: the per-cycle snapshot of `KEYPAD` (R30). -/
  keypadPrev : Word
  /-- `FB` (R31). -/
  fb : Framebuffer
  /-- `ACC_T`, the timer accumulator, in quanta (R32). -/
  accT : Nat
  /-- `ACC_C`, the CPU-cycle accumulator, in quanta (R32). -/
  accC : Nat
  /-- `VIOL`, the sticky violation status (R33). -/
  viol : Byte
  /-- The model's own: how many random bytes have been drawn (42_alu.md R123, log 2). -/
  draws : Nat
  /-- The model's own: the parameters the block was built with (10_state.md R37, log 1). -/
  cfg : Config
  deriving DecidableEq, Repr

/-- Why the machine stops. The hardware itself never does (60_exceptions.md R160, R177). -/
inductive Fault where
  /-- Raised by `2NNN` and `00EE` (execCall, execRet) when `SP` > 16, a value no run reaches (R26, R35) and for which the
  spec gives no effect. Safe: the model stops where nothing is said (log 3). -/
  | stackPointerIllegal
  deriving DecidableEq, Repr

/-- Why an instruction is refused. -/
inductive Refusal where
  /-- Raised by `exec` alone, for an instruction that has no meaning yet; no arm raises it now. Safe: the model stops. -/
  | notModelled (mnemonic : String)
  deriving DecidableEq, Repr

/-- The reset state of a block built with the parameters `c` (R34): every field as the table gives it. Memory lists nothing,
since an unlisted address reads as its reset contents. -/
def State.resetWith (c : Config) : State :=
  { mem := []
    v := Vector.replicate 16 0#8
    i := 0#16
    pc := c.loadOffset
    stack := Vector.replicate 16 0#16
    sp := 0#8
    dt := 0#8
    st := 0#8
    keypad := 0#16
    keypadPrev := 0#16
    fb := Vector.replicate 256 0#8
    accT := 0
    accC := 0
    viol := 0#8
    draws := 0
    cfg := c }

/-- The machine right after reset, with the default parameters (log 1). -/
def State.reset : State := State.resetWith Config.default

end Sys2Proof.Machine
end

