-- ==== Sys2Proof/Machine/Ops.lean ====
section
/-! DEFINITION. The named operations over state that every meaning is written with. -/

namespace Sys2Proof.Machine

/-- What an instruction answers. -/
abbrev Result := Host.Outcome State Fault Refusal

/-! ### One setter per field that an instruction writes -/

/-- `V[x]` (10_state.md R21). -/
def State.reg (s : State) (x : Nibble) : Byte := s.v[x.toNat]'x.isLt

/-- `V[x] <- b` (R21). -/
def State.setReg (s : State) (x : Nibble) (b : Byte) : State := { s with v := s.v.set x.toNat b x.isLt }

/-- `VF` (R22). -/
abbrev vf : Nibble := 0xF#4

/-- `I <- a`. -/
def State.setI (s : State) (a : Word) : State := { s with i := a }

/-- `PC <- a`. -/
def State.setPc (s : State) (a : Word) : State := { s with pc := a }

/-- `SP <- n`. -/
def State.setSp (s : State) (n : Byte) : State := { s with sp := n }

/-- `STACK <- st`. -/
def State.setStack (s : State) (st : Vector Word 16) : State := { s with stack := st }

/-- `DT <- b`. -/
def State.setDt (s : State) (b : Byte) : State := { s with dt := b }

/-- `ST <- b`. -/
def State.setSt (s : State) (b : Byte) : State := { s with st := b }

/-- `FB <- f`. -/
def State.setFb (s : State) (f : Framebuffer) : State := { s with fb := f }

/-- `MEM <- m`. -/
def State.setMem (s : State) (m : List Host.Cell) : State := { s with mem := m }

/-- `VIOL <- b`. -/
def State.setViol (s : State) (b : Byte) : State := { s with viol := b }

/-- The count of draws. -/
def State.setDraws (s : State) (n : Nat) : State := { s with draws := n }

/-! ### Violations: what stands in the place of exceptions (60_exceptions.md R160, R161, R165) -/

/-- The causes `Flag` records (10_state.md R33). -/
inductive Violation where
  | stackOverflow
  | stackUnderflow
  | memOob
  | pcOob
  | pcMisaligned
  | keyRange
  deriving DecidableEq, Repr

/-- The cause codes: the bit numbers in `VIOL` (R33, R161). -/
def Violation.bit (f : Violation) : Nat :=
  match f with
  | .stackOverflow => 0
  | .stackUnderflow => 1
  | .memOob => 2
  | .pcOob => 3
  | .pcMisaligned => 4
  | .keyRange => 5

/-- `Flag(NAME)` (R161): set the bit and change nothing else. No trap is taken: the hardware has none (R160, R165), so there
is no exception entry and no return from one. -/
def State.flag (s : State) (f : Violation) : State := s.setViol (s.viol ||| (1#8 <<< f.bit))

/-- `if c then Flag(NAME)`. -/
def State.flagIf (s : State) (c : Bool) (f : Violation) : State := if c then s.flag f else s

/-! ### Memory (20_memory.md R47 to R49) -/

/-- `MEM[a]` with no effect, for `a` in 0..4095. -/
def State.byteAt (s : State) (a : Nat) : Byte := Memory.read s.cfg.font s.mem a

/-- `MEM[a] <- b` with no check, for `a` in 0..4095. -/
def State.putByte (s : State) (a : Nat) (b : Byte) : State := s.setMem (Memory.write s.cfg.font s.mem a b)

/-- `MemRead(a, 1)` (R47): flag `MEM_OOB` at 4096 or above and read at `a mod 4096`. -/
def State.memRead (s : State) (a : Nat) : Byte × State :=
  (s.byteAt (a % 4096), s.flagIf (decide (4096 ≤ a)) .memOob)

/-- `MemWrite(a, 1, b)` (R48): flag `MEM_OOB` at 4096 or above and write at `a mod 4096`. -/
def State.memWrite (s : State) (a : Nat) (b : Byte) : State :=
  (s.flagIf (decide (4096 ≤ a)) .memOob).putByte (a % 4096) b

/-- The effective address of byte `k` of an access through `I`: the exact natural number `I + k` (R49). -/
def State.effAddr (s : State) (k : Nat) : Nat := s.i.toNat + k

/-- `for k = 0 to n - 1: MemWrite(I + k, 1, V[k])`, ascending (43_index_memory.md R134). -/
def State.storeRegs (s : State) (n : Nat) : State :=
  match n with
  | 0 => s
  | k + 1 =>
    let s1 := s.storeRegs k
    s1.memWrite (s1.effAddr k) (s1.reg (BitVec.ofNat 4 k))

/-- `for k = 0 to n - 1: V[k] <- MemRead(I + k, 1)`, ascending (43_index_memory.md R135). -/
def State.loadRegs (s : State) (n : Nat) : State :=
  match n with
  | 0 => s
  | k + 1 =>
    let s1 := s.loadRegs k
    let r := s1.memRead (s1.effAddr k)
    r.2.setReg (BitVec.ofNat 4 k) r.1

/-! ### Fetch (30_encoding.md R68) -/

/-- The addresses of the word at `PC`: `PC mod 4096` and `(PC + 1) mod 4096`. -/
def State.fetchAddrs (s : State) : Nat × Nat := (s.pc.toNat % 4096, (s.pc.toNat + 1) % 4096)

/-- The big-endian word at `PC` (R68 (3), 20_memory.md R50). -/
def State.fetchWord (s : State) : Word :=
  wordOfBytes (s.byteAt s.fetchAddrs.1) (s.byteAt s.fetchAddrs.2)

/-- The fetch's own effect on state: `PC_MISALIGNED` for an odd `PC`, `PC_OOB` for `PC` above 0xFFE (R68 (1), (2)). -/
def State.fetchFlags (s : State) : State :=
  (s.flagIf (decide (s.pc.toNat % 2 = 1)) .pcMisaligned).flagIf (decide (0xFFE < s.pc.toNat)) .pcOob

/-- `s` with the word `w` stored where the next fetch reads it, big-endian. -/
def State.storeFetchWord (s : State) (w : Word) : State :=
  (s.putByte s.fetchAddrs.1 (highByte w)).putByte s.fetchAddrs.2 (lowByte w)

/-! ### PC update (40_step_and_control.md R86, R87) -/

/-- The four kinds of PC update. -/
inductive PcUpdate where
  /-- `PC <- PC + 2`. -/
  | adv
  /-- `PC <- PC + 4`. -/
  | skip
  /-- `PC` unchanged. -/
  | hold
  /-- `PC <- t`. -/
  | target (t : Word)
  deriving DecidableEq, Repr

/-- PC-UPDATE applied to `PC` as EXECUTE left it, mod 2^16 (R86, R87). -/
def State.pcUpdate (s : State) (u : PcUpdate) : State :=
  match u with
  | .adv => s.setPc (s.pc + 2#16)
  | .skip => s.setPc (s.pc + 4#16)
  | .hold => s
  | .target t => s.setPc t

/-- An instruction's end: its PC update, and the machine goes on. -/
def State.finish (s : State) (u : PcUpdate) : Result := .next (s.pcUpdate u)

/-- Skip when `c` holds, else advance (41_skip.md R100). -/
def skipIf (c : Bool) : PcUpdate := if c then .skip else .adv

/-! ### The random byte (42_alu.md R123) -/

/-- `Draw()`: the free byte of this draw, and the count moved on so that the next draw is fresh. -/
def State.draw (s : State) : Byte × State := (Config.randomByte s.draws, s.setDraws (s.draws + 1))

/-! ### The framebuffer (10_state.md R31, 44_display.md R141) -/

/-- The byte of `FB` that holds pixel `(x, y)` (R31). -/
def fbIndex (x y : Nat) : Nat := y * 8 + x / 8

/-- `FBBYTE[n]`. -/
def fbByte (f : Framebuffer) (n : Nat) : Byte := f[n]?.getD 0#8

/-- `FB(x, y)`: bit `7 - (x mod 8)` of its byte (R31). -/
def fbPixel (f : Framebuffer) (x y : Nat) : Bool := (fbByte f (fbIndex x y)).getLsbD (7 - x % 8)

/-- `FBBYTE[n] <- FBBYTE[n] ^ b`. -/
def fbXor (f : Framebuffer) (n : Nat) (b : Byte) : Framebuffer := f.setIfInBounds n (fbByte f n ^^^ b)

/-- `FB(x, y) <- FB(x, y) ^ 1`. -/
def fbToggle (f : Framebuffer) (x y : Nat) : Framebuffer := fbXor f (fbIndex x y) (1#8 <<< (7 - x % 8))

/-- Bits `j` = 0 .. n - 1 of sprite byte `b`, from column `x0` of row `y`: bit `7 - j` is column `(x0 + j) mod 64`
(R141, R142, R143). The pair is the framebuffer and the collision so far (R144). -/
def drawBits (b : Byte) (x0 y n : Nat) (d : Framebuffer × Bool) : Framebuffer × Bool :=
  match n with
  | 0 => d
  | j + 1 =>
    let p := drawBits b x0 y j d
    if b.getLsbD (7 - j) then
      let x := (x0 + j) % 64
      (fbToggle p.1 x y, p.2 || fbPixel p.1 x y)
    else p

/-- `for r = 0 to n - 1`: read sprite byte `r` at `I + r` and draw it in row `(y0 + r) mod 32` (R141, R142). -/
def State.drawRows (s : State) (x0 y0 n : Nat) : State × Bool :=
  match n with
  | 0 => (s, false)
  | r + 1 =>
    let p := s.drawRows x0 y0 r
    let m := p.1.memRead (p.1.effAddr r)
    let d := drawBits m.1 x0 ((y0 + r) % 32) 8 (m.2.fb, p.2)
    (m.2.setFb d.1, d.2)

/-- The byte-level form of drawing one sprite byte (R142): two bytes of the row are XORed with the two parts of `b`. The
machine draws by `drawBits`; this form stands here so that the two can be proved to agree. -/
def drawBytes (b : Byte) (x0 y : Nat) (d : Framebuffer × Bool) : Framebuffer × Bool :=
  let sh := x0 % 8
  let col := x0 / 8
  let l := b >>> sh
  let r := b <<< (8 - sh)
  let iL := y * 8 + col
  let iR := y * 8 + (col + 1) % 8
  let hitL := decide (l &&& fbByte d.1 iL ≠ 0#8)
  if sh = 0 then (fbXor d.1 iL l, d.2 || hitL)
  else (fbXor (fbXor d.1 iL l) iR r, d.2 || hitL || decide (r &&& fbByte d.1 iR ≠ 0#8))

end Sys2Proof.Machine
end

