-- ==== Sys2Proof/Machine/Alu.lean ====
section
/-! DEFINITION. Register loads, the 8-bit ALU and the random AND (42_alu.md R110 to R123). Each transfer reads the state the
transfers before it left (00_scope.md R14). -/

namespace Sys2Proof.Machine

/-- `6XNN` (R111). -/
def execLdImm (x : Nibble) (nn : Byte) (s : State) : Result := (s.setReg x nn).finish .adv

/-- `7XNN` (R112): no flag. -/
def execAddImm (x : Nibble) (nn : Byte) (s : State) : Result := (s.setReg x (s.reg x + nn)).finish .adv

/-- `8XY0` (R113). -/
def execLdReg (x y : Nibble) (s : State) : Result := (s.setReg x (s.reg y)).finish .adv

/-- `8XY1` (R114): `VF` is not reset. -/
def execOrReg (x y : Nibble) (s : State) : Result := (s.setReg x (s.reg x ||| s.reg y)).finish .adv

/-- `8XY2` (R115): `VF` is not reset. -/
def execAndReg (x y : Nibble) (s : State) : Result := (s.setReg x (s.reg x &&& s.reg y)).finish .adv

/-- `8XY3` (R116): `VF` is not reset. -/
def execXorReg (x y : Nibble) (s : State) : Result := (s.setReg x (s.reg x ^^^ s.reg y)).finish .adv

/-- `8XY4` (R117): the sum first, then the carry of the exact sum of the old operands. -/
def execAddReg (x y : Nibble) (s : State) : Result :=
  let carry := carryFlag (s.reg x) (s.reg y)
  ((s.setReg x (s.reg x + s.reg y)).setReg vf carry).finish .adv

/-- `8XY5` (R118): the flag first; the difference reads both registers after it. -/
def execSubReg (x y : Nibble) (s : State) : Result :=
  let s1 := s.setReg vf (noBorrowFlag (s.reg x) (s.reg y))
  (s1.setReg x (s1.reg x - s1.reg y)).finish .adv

/-- `8XY6` (R119): the flag first; the shift reads `V[X]` after it; `Y` is ignored. -/
def execShr (x _y : Nibble) (s : State) : Result :=
  let s1 := s.setReg vf (shiftOutLow (s.reg x))
  (s1.setReg x (s1.reg x >>> 1)).finish .adv

/-- `8XY7` (R120): the flag first; the difference reads both registers after it. -/
def execSubnReg (x y : Nibble) (s : State) : Result :=
  let s1 := s.setReg vf (noBorrowFlag (s.reg y) (s.reg x))
  (s1.setReg x (s1.reg y - s1.reg x)).finish .adv

/-- `8XYE` (R121): the flag first; the shift reads `V[X]` after it; `Y` is ignored. -/
def execShl (x _y : Nibble) (s : State) : Result :=
  let s1 := s.setReg vf (shiftOutHigh (s.reg x))
  (s1.setReg x (s1.reg x <<< 1)).finish .adv

/-- `CXNN` for a given drawn byte `r` (R122). -/
def randomAnd (r : Byte) (x : Nibble) (nn : Byte) (s : State) : Result := (s.setReg x (r &&& nn)).finish .adv

/-- `CXNN` (R122): draw a fresh byte, then AND it. -/
def execRnd (x : Nibble) (nn : Byte) (s : State) : Result :=
  let d := s.draw
  randomAnd d.1 x nn d.2

end Sys2Proof.Machine
end

