-- ==== Sys2Proof/Machine/Operands.lean ====
section
/-! DEFINITION. The operand forms (30_encoding.md R67): immediates, register contents as addresses, keys, digits. -/

namespace Sys2Proof.Machine

/-- `zext_16(NNN)` (R67). -/
def zextAddr (nnn : Addr12) : Word := nnn.zeroExtend 16

/-- `zext_16(V)` (00_scope.md R12). -/
def zextByte (b : Byte) : Word := b.zeroExtend 16

/-- The address of glyph `b`: `zext_16(b) * 5`, with no masking of `b` (43_index_memory.md R132, 90_conflicts.md C1). -/
def glyphAddr (b : Byte) : Word := zextByte b * 5#16

/-- The hundreds digit, `b div 100` (43_index_memory.md R133). -/
def hundreds (b : Byte) : Byte := BitVec.ofNat 8 (b.toNat / 100)

/-- The tens digit, `(b div 10) mod 10` (R133). -/
def tens (b : Byte) : Byte := BitVec.ofNat 8 (b.toNat / 10 % 10)

/-- The ones digit, `b mod 10` (R133). -/
def ones (b : Byte) : Byte := BitVec.ofNat 8 (b.toNat % 10)

/-- `KeyPressed(k)` (41_skip.md R107): bit `k` of `KEYPAD`; above 15, `Flag(KEY_RANGE)` and released. -/
def State.keyPressed (s : State) (k : Byte) : Bool × State :=
  if k.toNat ≤ 15 then (s.keypad.getLsbD k.toNat, s) else (false, s.flag .keyRange)

/-- The keys whose state differs between `KEYPAD` and its snapshot (45_timers_keys.md R151). -/
def State.keyChange (s : State) : Word := s.keypad ^^^ s.keypadPrev

/-- The lowest set bit at `n` or above below `n + fuel`, else `n + fuel`. -/
def lowestBitFrom (w : Word) (n fuel : Nat) : Nat :=
  match fuel with
  | 0 => n
  | k + 1 => if w.getLsbD n then n else lowestBitFrom w (n + 1) k

/-- `min { k : w[k] = 1 }` for a nonzero `w` (R151). -/
def lowestBit (w : Word) : Nat := lowestBitFrom w 0 16

end Sys2Proof.Machine
end

