-- ==== Sys2Proof/Machine/Control.lean ====
section
/-! DEFINITION. `0NNN` and unrecognised words, return, jump, call (40_step_and_control.md R88 to R92). -/

namespace Sys2Proof.Machine

/-- `0NNN` (R88): no effect but ADV. -/
def execSys (_nnn : Addr12) (s : State) : Result := s.finish .adv

/-- Every unrecognised word (R88, 30_encoding.md R71): no effect but ADV. -/
def execUnrecognised (_u : Unrecognised) (s : State) : Result := s.finish .adv

/-- `00EE` (R89): pop into `PC`, then ADV; at `SP` = 0 flag and ADV. `SP` > 16 is no legal value (10_state.md R26): the
stack has no entry to pop (log 3). -/
def execRet (s : State) : Result :=
  if s.sp = 0#8 then (s.flag .stackUnderflow).finish .adv
  else if h : s.sp.toNat - 1 < 16 then
    let s1 := s.setSp (s.sp - 1#8)
    (s1.setPc (s1.stack[s.sp.toNat - 1]'h)).finish .adv
  else .fault .stackPointerIllegal

/-- `1NNN` (R90). -/
def execJp (nnn : Addr12) (s : State) : Result := s.finish (.target (zextAddr nnn))

/-- `2NNN` (R91): push the address of the call itself and jump; at `SP` = 16 flag and ADV, the call not taken. `SP` > 16 is
no legal value (10_state.md R26): the stack has no entry to push to (log 3). -/
def execCall (nnn : Addr12) (s : State) : Result :=
  if s.sp = 16#8 then (s.flag .stackOverflow).finish .adv
  else if h : s.sp.toNat < 16 then
    ((s.setStack (s.stack.set s.sp.toNat s.pc h)).setSp (s.sp + 1#8)).finish (.target (zextAddr nnn))
  else .fault .stackPointerIllegal

/-- `BNNN` (R92): the target is `NNN + V[0]`, at most 0x10FE. -/
def execJpV0 (nnn : Addr12) (s : State) : Result :=
  s.finish (.target (zextAddr nnn + zextByte (s.reg 0x0#4)))

end Sys2Proof.Machine
end

