-- ==== Sys2Proof/Machine/Display.lean ====
section
/-! DEFINITION. The framebuffer instructions (44_display.md R140 to R144). -/

namespace Sys2Proof.Machine

/-- `00E0` (R140). -/
def execCls (s : State) : Result := (s.setFb (Vector.replicate 256 0#8)).finish .adv

/-- `DXYN` (R141): the coordinates are read before any write; `VF` is written after all pixels. -/
def execDrw (x y n : Nibble) (s : State) : Result :=
  let x0 := (s.reg x).toNat % 64
  let y0 := (s.reg y).toNat % 32
  let p := s.drawRows x0 y0 n.toNat
  (p.1.setReg vf (flagByte p.2)).finish .adv

end Sys2Proof.Machine
end

