-- ==== Sys2Proof/Machine/Index.lean ====
section
/-! DEFINITION. The index register and the memory transfers through it (43_index_memory.md R130 to R135). -/

namespace Sys2Proof.Machine

/-- `ANNN` (R130). -/
def execLdI (nnn : Addr12) (s : State) : Result := (s.setI (zextAddr nnn)).finish .adv

/-- `FX1E` (R131): wraps mod 2^16, no flag. -/
def execAddI (x : Nibble) (s : State) : Result := (s.setI (s.i + zextByte (s.reg x))).finish .adv

/-- `FX29` (R132). -/
def execLdF (x : Nibble) (s : State) : Result := (s.setI (glyphAddr (s.reg x))).finish .adv

/-- `FX33` (R133): hundreds, tens, ones at `I`, `I + 1`, `I + 2`, in that order. -/
def execLdB (x : Nibble) (s : State) : Result :=
  let b := s.reg x
  let s1 := s.memWrite (s.effAddr 0) (hundreds b)
  let s2 := s1.memWrite (s1.effAddr 1) (tens b)
  let s3 := s2.memWrite (s2.effAddr 2) (ones b)
  s3.finish .adv

/-- `FX55` (R134): `V[0..X]` to memory at `I`; `I` is not changed. -/
def execLdMemVx (x : Nibble) (s : State) : Result := (s.storeRegs (x.toNat + 1)).finish .adv

/-- `FX65` (R135): memory at `I` to `V[0..X]`; `I` is not changed. -/
def execLdVxMem (x : Nibble) (s : State) : Result := (s.loadRegs (x.toNat + 1)).finish .adv

end Sys2Proof.Machine
end

