-- ==== Sys2Proof/Machine/Skip.lean ====
section
/-! DEFINITION. The conditional skips (41_skip.md R100 to R107). -/

namespace Sys2Proof.Machine

/-- `3XNN` (R101). -/
def execSeImm (x : Nibble) (nn : Byte) (s : State) : Result := s.finish (skipIf (decide (s.reg x = nn)))

/-- `4XNN` (R102). -/
def execSneImm (x : Nibble) (nn : Byte) (s : State) : Result := s.finish (skipIf (decide (s.reg x ≠ nn)))

/-- `5XY0` (R103). -/
def execSeReg (x y : Nibble) (s : State) : Result := s.finish (skipIf (decide (s.reg x = s.reg y)))

/-- `9XY0` (R104). -/
def execSneReg (x y : Nibble) (s : State) : Result := s.finish (skipIf (decide (s.reg x ≠ s.reg y)))

/-- `EX9E` (R105). -/
def execSkp (x : Nibble) (s : State) : Result :=
  let p := s.keyPressed (s.reg x)
  p.2.finish (skipIf p.1)

/-- `EXA1` (R106). -/
def execSknp (x : Nibble) (s : State) : Result :=
  let p := s.keyPressed (s.reg x)
  p.2.finish (skipIf (!p.1))

end Sys2Proof.Machine
end

