-- ==== Sys2Proof/Machine/Timers.lean ====
section
/-! DEFINITION. The timer and key-wait instructions (45_timers_keys.md R150 to R153). -/

namespace Sys2Proof.Machine

/-- `FX07` (R150). -/
def execLdVxDt (x : Nibble) (s : State) : Result := (s.setReg x s.dt).finish .adv

/-- `FX0A` (R151): HOLD while no key changed; else the lowest-numbered changed key and ADV. -/
def execLdVxK (x : Nibble) (s : State) : Result :=
  if s.keyChange = 0#16 then s.finish .hold
  else (s.setReg x (BitVec.ofNat 8 (lowestBit s.keyChange))).finish .adv

/-- `FX15` (R152): the scheduler's accumulator is not touched. -/
def execLdDtVx (x : Nibble) (s : State) : Result := (s.setDt (s.reg x)).finish .adv

/-- `FX18` (R153). -/
def execLdStVx (x : Nibble) (s : State) : Result := (s.setSt (s.reg x)).finish .adv

end Sys2Proof.Machine
end

