-- ==== Sys2Proof/Machine/Step.lean ====
section
/-! DEFINITION. `step`: one CPU cycle (40_step_and_control.md R85). -/

namespace Sys2Proof.Machine

/-- FETCH, DECODE, EXECUTE, PC-UPDATE (R85). The copy of `KEYPAD` into `KEYPAD_PREV` is the scheduler's, not part of `step`
(R85, 60_exceptions.md R171): see `cpuCycle` (log 4). -/
def step (s : State) : Host.Outcome State Fault Refusal :=
  match decode s.fetchWord with
  | .ok i => exec i s.fetchFlags
  | .error u => execUnrecognised u s.fetchFlags

/-- `s` with the instruction whose bits are `w` (the bits above `nbits` zero) stored where `step` fetches next (log 5). -/
def State.withFetchWord (s : State) (nbits w : Nat) : State :=
  s.storeFetchWord (BitVec.ofNat 16 (w % 2 ^ nbits))

end Sys2Proof.Machine
end

