-- ==== Sys2Proof/Machine/Scheduler.lean ====
section
/-! DEFINITION. The timers and the cycle scheduler (60_exceptions.md R167 to R171). -/

namespace Sys2Proof.Machine

/-- A timer counts down and stops at 0. -/
def countDown (b : Byte) : Byte := if b = 0#8 then b else b - 1#8

/-- `TimerTick()` (R168). -/
def State.timerTick (s : State) : State := (s.setDt (countDown s.dt)).setSt (countDown s.st)

/-- `KEYPAD_PREV <- KEYPAD` (R171). -/
def State.snapshot (s : State) : State := { s with keypadPrev := s.keypad }

/-- `ACC_T <- n`. -/
def State.setAccT (s : State) (n : Nat) : State := { s with accT := n }

/-- `ACC_C <- n`. -/
def State.setAccC (s : State) (n : Nat) : State := { s with accC := n }

/-- One CPU cycle of the scheduler: `step`, then the snapshot (R169, R171). -/
def cpuCycle (s : State) : Result :=
  match step s with
  | .next t => .next t.snapshot
  | .fault r => .fault r
  | .refused r => .refused r

/-- `while ACC_T >= TIMER_PERIOD_Q: tick and subtract` (R169), at most `fuel` times. -/
def timerLoop (fuel : Nat) (s : State) : State :=
  match fuel with
  | 0 => s
  | n + 1 =>
    if s.cfg.timerPeriodQ ≤ s.accT then timerLoop n (s.timerTick.setAccT (s.accT - s.cfg.timerPeriodQ)) else s

/-- `while ACC_C >= CPU_PERIOD_Q: step, snapshot and subtract` (R169), at most `fuel` times. -/
def cpuLoop (fuel : Nat) (s : State) : Result :=
  match fuel with
  | 0 => .next s
  | n + 1 =>
    if s.cfg.cpuPeriodQ ≤ s.accC then
      match cpuCycle s with
      | .next t => cpuLoop n (t.setAccC (t.accC - t.cfg.cpuPeriodQ))
      | .fault r => .fault r
      | .refused r => .refused r
    else .next s

/-- `ADVANCE(q)` (R169): the timer loop runs to completion, then the CPU loop (R170). A loop subtracts at least 1 each time
(R9: the periods are positive), so the accumulator itself is enough fuel (log 8). -/
def advance (q : Nat) (s : State) : Result :=
  let s1 := (s.setAccT (s.accT + q)).setAccC (s.accC + q)
  let s2 := timerLoop s1.accT s1
  cpuLoop s2.accC s2

end Sys2Proof.Machine
end

