-- ==== Sys2Proof/Machine/HostInterface.lean ====
section
/-! DEFINITION. The host's transactions (60_exceptions.md R172, R175; 70_reset_and_hazards.md R190 to R194). -/

namespace Sys2Proof.Machine

/-- RESET (R190): the reset state of this block's parameters (R194). The count of draws goes on, so that draws before and
after a reset stay unrelated (42_alu.md R123, log 2). -/
def hostReset (s : State) : State := (State.resetWith s.cfg).setDraws s.draws

/-- The longest image LOAD takes: `4096 - LOAD_OFFSET` bytes (R191). -/
def imageLimit (c : Config) : Nat := 4096 - c.loadOffset.toNat

/-- LOAD of an image that fits (R191): RESET, then the bytes from `LOAD_OFFSET` on. -/
def installImage (bytes : List Byte) (s : State) : State :=
  let r := hostReset s
  r.setMem (Memory.copyIn r.cfg.font r.mem r.cfg.loadOffset.toNat bytes)

/-- KEYPAD_WRITE (R175): `KEYPAD <- k`; nothing else. -/
def keypadWrite (k : Word) (s : State) : State := { s with keypad := k }

/-- `SOUND_ON` = `[ST != 0]` (R172). -/
def State.soundOn (s : State) : Bool := decide (s.st ≠ 0#8)

/-- The transactions of R175. -/
inductive Transaction where
  | reset
  | load (bytes : List Byte)
  | advance (q : Nat)
  | keypadWrite (k : Word)
  | readFb
  | readTimers
  | readViol
  deriving DecidableEq, Repr

/-- What the block returns (R175). -/
inductive Response where
  /-- RESET, ADVANCE and KEYPAD_WRITE return nothing. -/
  | none
  /-- LOAD: the image was installed. -/
  | ok
  /-- LOAD: the image is too long, nothing was copied (R192). -/
  | tooLarge
  /-- READ_FB. -/
  | fb (bytes : Framebuffer)
  /-- READ_TIMERS: `DT`, `ST`, `SOUND_ON`. -/
  | timers (dt st : Byte) (soundOn : Bool)
  /-- READ_VIOL. -/
  | viol (bits : Byte)
  deriving DecidableEq, Repr

/-- One transaction (R175), atomic (00_scope.md R5). -/
def transact (t : Transaction) (s : State) : Host.Outcome (State × Response) Fault Refusal :=
  match t with
  | .reset => .next (hostReset s, .none)
  | .load bytes =>
    if bytes.length ≤ imageLimit s.cfg then .next (installImage bytes s, .ok) else .next (hostReset s, .tooLarge)
  | .advance q =>
    match advance q s with
    | .next u => .next (u, .none)
    | .fault r => .fault r
    | .refused r => .refused r
  | .keypadWrite k => .next (keypadWrite k s, .none)
  | .readFb => .next (s, .fb s.fb)
  | .readTimers => .next (s, .timers s.dt s.st s.soundOn)
  | .readViol => .next (s, .viol s.viol)

/-- A run: the transactions the host issues, one after another (60_exceptions.md R177), with their responses. -/
def runHost (ts : List Transaction) (s : State) : Host.Outcome (State × List Response) Fault Refusal :=
  match ts with
  | [] => .next (s, [])
  | t :: rest =>
    match transact t s with
    | .next (u, r) =>
      match runHost rest u with
      | .next (w, rs) => .next (w, r :: rs)
      | .fault f => .fault f
      | .refused f => .refused f
    | .fault f => .fault f
    | .refused f => .refused f

end Sys2Proof.Machine
end

