-- ==== Sys2Proof/Safety.lean ====
section
/-! DEFINITION. What claims are stated with: the invariant, a run that kept to defined behaviour, frames. -/

namespace Sys2Proof.Machine

/-- The invariant of every step boundary (10_state.md R35) beyond what the types say: memory in canonical form, `SP` in
0..16, `VIOL[7:6]` = 0. -/
abbrev State.Inv (s : State) : Prop :=
  Memory.wf s.cfg.font s.mem = true ∧ s.sp.toNat ≤ 16 ∧ s.viol.extractLsb' 6 2 = 0#2

/-- What also holds between transactions (10_state.md R32): each accumulator is below its period. -/
abbrev State.BetweenTransactions (s : State) : Prop :=
  s.Inv ∧ s.accT < s.cfg.timerPeriodQ ∧ s.accC < s.cfg.cpuPeriodQ

/-- A state whose run kept to the behaviour the source defines: no violation recorded (60_exceptions.md R162). -/
abbrev State.Clean (s : State) : Prop := s.viol = 0#8

/-- The parts a state is made of. -/
inductive Part where
  | mem | regs | i | pc | stack | sp | dt | st | keypad | keypadPrev | fb | accT | accC | viol | draws | cfg
  deriving DecidableEq, Repr

/-- The part reads the same in both states: every byte of memory, every register, every stack entry. -/
def Part.same (p : Part) (s t : State) : Prop :=
  match p with
  | .mem => ∀ a, t.byteAt a = s.byteAt a
  | .regs => ∀ x, t.reg x = s.reg x
  | .i => t.i = s.i
  | .pc => t.pc = s.pc
  | .stack => t.stack = s.stack
  | .sp => t.sp = s.sp
  | .dt => t.dt = s.dt
  | .st => t.st = s.st
  | .keypad => t.keypad = s.keypad
  | .keypadPrev => t.keypadPrev = s.keypadPrev
  | .fb => t.fb = s.fb
  | .accT => t.accT = s.accT
  | .accC => t.accC = s.accC
  | .viol => t.viol = s.viol
  | .draws => t.draws = s.draws
  | .cfg => t.cfg = s.cfg

/-- From `s` to `t` every part outside `ps` is unchanged (00_scope.md R15). -/
def KeepsExcept (ps : List Part) (s t : State) : Prop := ∀ p, p ∉ ps → p.same s t

/-- Every register but those in `xs` is unchanged. -/
def KeepsRegsExcept (xs : List Nibble) (s t : State) : Prop := ∀ x, x ∉ xs → t.reg x = s.reg x

/-- Every byte of memory but those at the addresses in `as` reads as before. -/
def KeepsBytesExcept (as : List Nat) (s t : State) : Prop := ∀ a, a ∉ as → t.byteAt a = s.byteAt a

/-- `n` CPU cycles of the scheduler, one after another. -/
def runCycles (n : Nat) (s : State) : Result :=
  match n with
  | 0 => .next s
  | k + 1 =>
    match cpuCycle s with
    | .next t => runCycles k t
    | .fault r => .fault r
    | .refused r => .refused r

/-- `n` timer ticks, one after another. -/
def runTicks (n : Nat) (s : State) : State :=
  match n with
  | 0 => s
  | k + 1 => runTicks k s.timerTick

end Sys2Proof.Machine
end

