-- ==== Sys2Proof/Certificates/Slice0/Obligations.lean ====
section
/-! DEFINITION. The statements for the provers, from the numbered rules of spec/. Some of those rules are the spec's own
decisions where its source is open (marked there "[decision: D<n>]", log 9). The statements that rest on one: the fetch at
an odd or large `PC` (D12, D13), the stack's two ends (D9, D10), key numbers above 15 (D14), addresses at 4096 and above
(D11), the order in which flag instructions read and write (D6, D7), the edges and bit orders of the framebuffer (D15 to
D17), the oversized image (D22), the quanta and the order of ticks and steps (D3). -/

open Sys2Proof Sys2Proof.Machine

/-! ### Encoding and decoding (30_encoding.md) -/

/-- R69, R74: words written out from the patterns decode to the instructions they stand for, one or more per family. -/
def Obligations.DecodeReadsSpecWords : Prop :=
  decode 0x8124#16 = .ok (.addReg 1 2) ∧ decode 0x00EE#16 = .ok .ret ∧ decode 0x0012#16 = .ok (.sys 0x012) ∧
  decode 0x120A#16 = .ok (.jp 0x20A) ∧ decode 0x2210#16 = .ok (.call 0x210) ∧ decode 0x3205#16 = .ok (.seImm 2 0x05) ∧
  decode 0x9120#16 = .ok (.sneReg 1 2) ∧ decode 0xE09E#16 = .ok (.skp 0) ∧ decode 0x6A3C#16 = .ok (.ldImm 0xA 0x3C) ∧
  decode 0xC30F#16 = .ok (.rnd 3 0x0F) ∧ decode 0xA300#16 = .ok (.ldI 0x300) ∧ decode 0xF033#16 = .ok (.ldB 0) ∧
  decode 0xF265#16 = .ok (.ldVxMem 2) ∧ decode 0x00E0#16 = .ok .cls ∧ decode 0xD125#16 = .ok (.drw 1 2 5) ∧
  decode 0xF30A#16 = .ok (.ldVxK 3) ∧ decode 0x5121#16 = .error .op5

/-- R66, R69: decoding the encoding of a well-formed instruction gives it back, as a word and at the head of bytes. -/
def Obligations.DecodeOfEncodeIsIdentity : Prop :=
  ∀ i : Instr, i.wellFormed = true →
    decode (encode i) = .ok i ∧ ∀ rest : List Byte, decodeBytes (bytesOfWord (encode i) ++ rest) = .ok (i, rest)

/-- R72: a word that decodes to an instruction is that instruction's encoding, so no two words share a meaning and no bit of
a word is dropped; and what is decoded is well formed. -/
def Obligations.EncodeOfDecodeIsIdentity : Prop :=
  ∀ (w : Word) (i : Instr), decode w = .ok i → encode i = w ∧ i.wellFormed = true

/-- R70: every fixed digit of a pattern is checked. Other than `0NNN`, the words that `decode` calls unrecognised are exactly
these, by the digits of the word. The split is the model's choice (log 10): R69 and R71 count the `0NNN` words among the
unrecognised, and in the model they have the constructor `sys`. -/
def Obligations.UnrecognisedWordsAreExactlyTheUnlisted : Prop :=
  ∀ w : Word, (∃ u, decode w = .error u) ↔
    (w.toNat / 4096 = 0x5 ∧ w.toNat % 16 ≠ 0) ∨
    (w.toNat / 4096 = 0x8 ∧ w.toNat % 16 ∈ [0x8, 0x9, 0xA, 0xB, 0xC, 0xD, 0xF]) ∨
    (w.toNat / 4096 = 0x9 ∧ w.toNat % 16 ≠ 0) ∨
    (w.toNat / 4096 = 0xE ∧ w.toNat % 256 ∉ [0x9E, 0xA1]) ∨
    (w.toNat / 4096 = 0xF ∧ w.toNat % 256 ∉ [0x07, 0x0A, 0x15, 0x18, 0x1E, 0x29, 0x33, 0x55, 0x65])

/-! ### The step (40_step_and_control.md R85; 30_encoding.md R68) -/

/-- R85: a step is exec of the instruction whose word lies at `PC`, on the state the fetch leaves. -/
def Obligations.StepRunsTheDecodedInstruction : Prop :=
  ∀ (s : State) (i : Instr),
    decode (wordOfBytes (s.byteAt (s.pc.toNat % 4096)) (s.byteAt ((s.pc.toNat + 1) % 4096))) = .ok i →
    step s = exec i s.fetchFlags

/-- R68: the word is big-endian at `PC mod 4096` and `(PC + 1) mod 4096`; the fetch sets `PC_MISALIGNED` for an odd `PC`,
`PC_OOB` for a `PC` above 0xFFE, no other bit (so never `MEM_OOB`), and changes nothing else; the step then executes
the decoded instruction normally. -/
def Obligations.FetchFlagsOddAndOutOfMemoryPc : Prop :=
  ∀ s : State,
    s.fetchWord.toNat = (s.byteAt (s.pc.toNat % 4096)).toNat * 256 + (s.byteAt ((s.pc.toNat + 1) % 4096)).toNat ∧
    s.fetchFlags.viol.getLsbD 4 = (s.viol.getLsbD 4 || decide (s.pc.toNat % 2 = 1)) ∧
    s.fetchFlags.viol.getLsbD 3 = (s.viol.getLsbD 3 || decide (s.pc.toNat > 0xFFE)) ∧
    (∀ j, j ≠ 3 → j ≠ 4 → s.fetchFlags.viol.getLsbD j = s.viol.getLsbD j) ∧
    KeepsExcept [.viol] s s.fetchFlags ∧
    (∀ i, decode s.fetchWord = .ok i → step s = exec i s.fetchFlags)

/-- R88: `0NNN`, and a step that meets an unrecognised word, only advance `PC` by 2. -/
def Obligations.SysAndUnrecognisedWordsOnlyAdvance : Prop :=
  (∀ (nnn : Addr12) (s : State), ∃ t, exec (.sys nnn) s = .next t ∧ t.pc.toNat = (s.pc.toNat + 2) % 65536 ∧
    KeepsExcept [.pc] s t) ∧
  (∀ (s : State) (u : Unrecognised), decode s.fetchWord = .error u →
    ∃ t, step s = .next t ∧ t.pc.toNat = (s.pc.toNat + 2) % 65536 ∧ KeepsExcept [.pc] s.fetchFlags t)

/-! ### Control transfer (40_step_and_control.md R89 to R93) -/

/-- R90, R92: the jumps set `PC` to `NNN`, to `NNN + V[0]` unreduced, and change nothing else. -/
def Obligations.JumpsSetPc : Prop :=
  ∀ (nnn : Addr12) (s : State),
    (∃ t, exec (.jp nnn) s = .next t ∧ t.pc.toNat = nnn.toNat ∧ KeepsExcept [.pc] s t) ∧
    (∃ t, exec (.jpV0 nnn) s = .next t ∧ t.pc.toNat = nnn.toNat + (s.reg 0x0#4).toNat ∧ KeepsExcept [.pc] s t)

/-- R91: below 16 occupied entries a call pushes its own address and jumps; at 16 it flags `STACK_OVERFLOW`, advances and
does nothing else. -/
def Obligations.CallPushesAndJumpsOrOverflows : Prop :=
  ∀ (nnn : Addr12) (s : State),
    (∀ h : s.sp.toNat < 16, ∃ t, exec (.call nnn) s = .next t ∧ t.pc.toNat = nnn.toNat ∧
      t.sp.toNat = s.sp.toNat + 1 ∧ t.stack[s.sp.toNat]'h = s.pc ∧
      (∀ (j : Nat) (hj : j < 16), j ≠ s.sp.toNat → t.stack[j] = s.stack[j]) ∧ KeepsExcept [.pc, .sp, .stack] s t) ∧
    (s.sp.toNat = 16 → ∃ t, exec (.call nnn) s = .next t ∧ t.pc.toNat = (s.pc.toNat + 2) % 65536 ∧
      t.viol = s.viol ||| 0x01#8 ∧ KeepsExcept [.pc, .viol] s t)

/-- R89: with 1 to 16 occupied entries a return pops into `PC` and advances past it; with none it flags `STACK_UNDERFLOW`
and advances. -/
def Obligations.ReturnPopsAndAdvancesOrUnderflows : Prop :=
  ∀ s : State,
    (∀ h : s.sp.toNat - 1 < 16, s.sp.toNat ≠ 0 → ∃ t, exec .ret s = .next t ∧
      t.pc.toNat = ((s.stack[s.sp.toNat - 1]'h).toNat + 2) % 65536 ∧ t.sp.toNat = s.sp.toNat - 1 ∧
      KeepsExcept [.pc, .sp] s t) ∧
    (s.sp.toNat = 0 → ∃ t, exec .ret s = .next t ∧ t.pc.toNat = (s.pc.toNat + 2) % 65536 ∧
      t.viol = s.viol ||| 0x02#8 ∧ KeepsExcept [.pc, .viol] s t)

/-- The model's choice (log 3): with `SP` above 16, which no run reaches and for which the spec gives no effect, a call and
a return stop by name. -/
def Obligations.IllegalStackPointerStopsCallAndReturn : Prop :=
  ∀ (nnn : Addr12) (s : State), 16 < s.sp.toNat →
    exec (.call nnn) s = .fault .stackPointerIllegal ∧ exec .ret s = .fault .stackPointerIllegal

/-- R93: after a call, a return run in any state with the stack and `SP` the call left lands just past the call, with `SP`
as it was before it. -/
def Obligations.ReturnLandsPastItsCall : Prop :=
  ∀ (nnn : Addr12) (s : State), s.sp.toNat < 16 → ∃ t, exec (.call nnn) s = .next t ∧
    ∀ u : State, u.stack = t.stack → u.sp = t.sp →
      ∃ r, exec .ret u = .next r ∧ r.pc.toNat = (s.pc.toNat + 2) % 65536 ∧ r.sp = s.sp

/-! ### Skips (41_skip.md) -/

/-- R100, R101, R102: `3XNN` skips on equality and `4XNN` on inequality with the byte; only `PC` changes. -/
def Obligations.SkipsOnByteCompare : Prop :=
  ∀ (x : Nibble) (nn : Byte) (s : State),
    (∃ t, exec (.seImm x nn) s = .next t ∧
      t.pc.toNat = (s.pc.toNat + if s.reg x = nn then 4 else 2) % 65536 ∧ KeepsExcept [.pc] s t) ∧
    (∃ t, exec (.sneImm x nn) s = .next t ∧
      t.pc.toNat = (s.pc.toNat + if s.reg x = nn then 2 else 4) % 65536 ∧ KeepsExcept [.pc] s t)

/-- R100, R103, R104: `5XY0` skips on equality and `9XY0` on inequality of the registers; only `PC` changes. -/
def Obligations.SkipsOnRegisterCompare : Prop :=
  ∀ (x y : Nibble) (s : State),
    (∃ t, exec (.seReg x y) s = .next t ∧
      t.pc.toNat = (s.pc.toNat + if s.reg x = s.reg y then 4 else 2) % 65536 ∧ KeepsExcept [.pc] s t) ∧
    (∃ t, exec (.sneReg x y) s = .next t ∧
      t.pc.toNat = (s.pc.toNat + if s.reg x = s.reg y then 2 else 4) % 65536 ∧ KeepsExcept [.pc] s t)

/-- R105, R106, R107: for a key 0..15 the key skips test that bit of `KEYPAD` and change only `PC`; above 15 the key reads
released and `KEY_RANGE` is flagged. -/
def Obligations.SkipsOnKey : Prop :=
  ∀ (x : Nibble) (s : State),
    ((s.reg x).toNat ≤ 15 →
      (∃ t, exec (.skp x) s = .next t ∧
        t.pc.toNat = (s.pc.toNat + if s.keypad.getLsbD (s.reg x).toNat then 4 else 2) % 65536 ∧ KeepsExcept [.pc] s t) ∧
      (∃ t, exec (.sknp x) s = .next t ∧
        t.pc.toNat = (s.pc.toNat + if s.keypad.getLsbD (s.reg x).toNat then 2 else 4) % 65536 ∧
        KeepsExcept [.pc] s t)) ∧
    (15 < (s.reg x).toNat →
      (∃ t, exec (.skp x) s = .next t ∧ t.pc.toNat = (s.pc.toNat + 2) % 65536 ∧ t.viol = s.viol ||| 0x20#8 ∧
        KeepsExcept [.pc, .viol] s t) ∧
      (∃ t, exec (.sknp x) s = .next t ∧ t.pc.toNat = (s.pc.toNat + 4) % 65536 ∧ t.viol = s.viol ||| 0x20#8 ∧
        KeepsExcept [.pc, .viol] s t))

/-! ### Register loads and the ALU (42_alu.md; `FX07` of 45_timers_keys.md) -/

/-- `s` to `t`: `PC` advanced by 2, only the registers `xs` changed. -/
def AdvancesWritingRegs (xs : List Nibble) (s t : State) : Prop :=
  t.pc.toNat = (s.pc.toNat + 2) % 65536 ∧ KeepsRegsExcept xs s t ∧ KeepsExcept [.pc, .regs] s t

/-- R111, R113, R150: `6XNN`, `8XY0` and `FX07` load `NN`, `V[Y]` and `DT`. -/
def Obligations.RegisterLoads : Prop :=
  ∀ (x y : Nibble) (nn : Byte) (s : State),
    (∃ t, exec (.ldImm x nn) s = .next t ∧ t.reg x = nn ∧ AdvancesWritingRegs [x] s t) ∧
    (∃ t, exec (.ldReg x y) s = .next t ∧ t.reg x = s.reg y ∧ AdvancesWritingRegs [x] s t) ∧
    (∃ t, exec (.ldVxDt x) s = .next t ∧ t.reg x = s.dt ∧ AdvancesWritingRegs [x] s t)

/-- R112: `7XNN` adds mod 256 and sets no flag: `VF` keeps its value unless `X` = F. -/
def Obligations.AddImmediateWrapsWithoutFlag : Prop :=
  ∀ (x : Nibble) (nn : Byte) (s : State), ∃ t, exec (.addImm x nn) s = .next t ∧
    (t.reg x).toNat = ((s.reg x).toNat + nn.toNat) % 256 ∧ AdvancesWritingRegs [x] s t

/-- R114, R115, R116: OR, AND, XOR act bit by bit and do not touch `VF` (unless `X` = F). -/
def Obligations.LogicActsBitwiseAndKeepsVf : Prop :=
  ∀ (x y : Nibble) (s : State),
    (∃ t, exec (.orReg x y) s = .next t ∧
      (∀ j, (t.reg x).getLsbD j = ((s.reg x).getLsbD j || (s.reg y).getLsbD j)) ∧ AdvancesWritingRegs [x] s t) ∧
    (∃ t, exec (.andReg x y) s = .next t ∧
      (∀ j, (t.reg x).getLsbD j = ((s.reg x).getLsbD j && (s.reg y).getLsbD j)) ∧ AdvancesWritingRegs [x] s t) ∧
    (∃ t, exec (.xorReg x y) s = .next t ∧
      (∀ j, (t.reg x).getLsbD j = ((s.reg x).getLsbD j ^^ (s.reg y).getLsbD j)) ∧ AdvancesWritingRegs [x] s t)

/-- R117: the sum mod 256 in `V[X]`, then `VF` is 1 exactly when the exact sum of the old operands exceeds 255; with
`X` = F the carry is what remains. -/
def Obligations.AddSetsCarryOfExactSum : Prop :=
  ∀ (x y : Nibble) (s : State), ∃ t, exec (.addReg x y) s = .next t ∧
    (t.reg vf).toNat = (if 255 < (s.reg x).toNat + (s.reg y).toNat then 1 else 0) ∧
    (x ≠ vf → (t.reg x).toNat = ((s.reg x).toNat + (s.reg y).toNat) % 256) ∧ AdvancesWritingRegs [x, vf] s t

/-- R118: with `f` = 1 when `V[X] >= V[Y]` and 0 otherwise, written to `VF` first, `V[X]` is the difference mod 256 of the
registers read after that write, in every case of `X`, `Y` being F. -/
def Obligations.SubWritesNoBorrowFirst : Prop :=
  ∀ (x y : Nibble) (s : State), ∃ f : Nat, f = (if (s.reg y).toNat ≤ (s.reg x).toNat then 1 else 0) ∧
    ∃ t, exec (.subReg x y) s = .next t ∧
      (x ≠ vf → (t.reg vf).toNat = f) ∧
      (x ≠ vf → y ≠ vf → (t.reg x).toNat = (256 + (s.reg x).toNat - (s.reg y).toNat) % 256) ∧
      (x ≠ vf → y = vf → (t.reg x).toNat = (256 + (s.reg x).toNat - f) % 256) ∧
      (x = vf → y ≠ vf → (t.reg vf).toNat = (256 + f - (s.reg y).toNat) % 256) ∧
      (x = vf → y = vf → (t.reg vf).toNat = 0) ∧ AdvancesWritingRegs [x, vf] s t

/-- R120: as R118 with the operands exchanged: `V[Y] - V[X]`, the flag 1 when `V[Y] >= V[X]`. -/
def Obligations.SubnWritesNoBorrowFirst : Prop :=
  ∀ (x y : Nibble) (s : State), ∃ f : Nat, f = (if (s.reg x).toNat ≤ (s.reg y).toNat then 1 else 0) ∧
    ∃ t, exec (.subnReg x y) s = .next t ∧
      (x ≠ vf → (t.reg vf).toNat = f) ∧
      (x ≠ vf → y ≠ vf → (t.reg x).toNat = (256 + (s.reg y).toNat - (s.reg x).toNat) % 256) ∧
      (x ≠ vf → y = vf → (t.reg x).toNat = (256 + f - (s.reg x).toNat) % 256) ∧
      (x = vf → y ≠ vf → (t.reg vf).toNat = (256 + (s.reg y).toNat - f) % 256) ∧
      (x = vf → y = vf → (t.reg vf).toNat = 0) ∧ AdvancesWritingRegs [x, vf] s t

/-- R119, R121: the shifts act on `V[X]`, whatever `Y`; `VF` takes the bit shifted out before `V[X]` is shifted, so with
`X` = F the flag bit itself is shifted. -/
def Obligations.ShiftsPutOutTheirBit : Prop :=
  ∀ (x y : Nibble) (s : State),
    (∃ t, exec (.shr x y) s = .next t ∧
      (x ≠ vf → (t.reg vf).toNat = (s.reg x).toNat % 2 ∧ (t.reg x).toNat = (s.reg x).toNat / 2) ∧
      (x = vf → (t.reg vf).toNat = 0) ∧ AdvancesWritingRegs [x, vf] s t) ∧
    (∃ t, exec (.shl x y) s = .next t ∧
      (x ≠ vf → (t.reg vf).toNat = (s.reg x).toNat / 128 ∧ (t.reg x).toNat = 2 * (s.reg x).toNat % 256) ∧
      (x = vf → (t.reg vf).toNat = 2 * ((s.reg vf).toNat / 128)) ∧ AdvancesWritingRegs [x, vf] s t)

/-- R122 for the model's free draw (log 2): `V[X]` is the drawn byte AND `NN`, so a bit that `NN` has 0 is 0 whatever is
drawn; the count of draws goes up by one, so that the next draw is another. -/
def Obligations.RandomByteIsMaskedAndFresh : Prop :=
  ∀ (x : Nibble) (nn : Byte) (s : State), ∃ t, exec (.rnd x nn) s = .next t ∧
    (∀ j, (t.reg x).getLsbD j = ((Config.randomByte s.draws).getLsbD j && nn.getLsbD j)) ∧
    t.draws = s.draws + 1 ∧ t.pc.toNat = (s.pc.toNat + 2) % 65536 ∧ KeepsRegsExcept [x] s t ∧
    KeepsExcept [.pc, .regs, .draws] s t

/-! ### The index register and memory transfers (43_index_memory.md) -/

/-- R130, R131, R132: the writers of `I`: `NNN`; `I + V[X]` mod 2^16 with no flag; `V[X] * 5` with no masking. -/
def Obligations.IndexRegisterWrites : Prop :=
  ∀ (x : Nibble) (nnn : Addr12) (s : State),
    (∃ t, exec (.ldI nnn) s = .next t ∧ t.i.toNat = nnn.toNat ∧ t.pc.toNat = (s.pc.toNat + 2) % 65536 ∧
      KeepsExcept [.pc, .i] s t) ∧
    (∃ t, exec (.addI x) s = .next t ∧ t.i.toNat = (s.i.toNat + (s.reg x).toNat) % 65536 ∧
      t.pc.toNat = (s.pc.toNat + 2) % 65536 ∧ KeepsExcept [.pc, .i] s t) ∧
    (∃ t, exec (.ldF x) s = .next t ∧ t.i.toNat = (s.reg x).toNat * 5 ∧ t.pc.toNat = (s.pc.toNat + 2) % 65536 ∧
      KeepsExcept [.pc, .i] s t)

/-- R133: the three decimal digits go to `I`, `I + 1`, `I + 2` (each mod 4096, with `MEM_OOB` when one is 4096 or above); no
other byte changes and `I` stays. -/
def Obligations.BcdStoresThreeDigits : Prop :=
  ∀ (x : Nibble) (s : State), s.Inv → ∃ t, exec (.ldB x) s = .next t ∧
    (t.byteAt (s.effAddr 0 % 4096)).toNat = (s.reg x).toNat / 100 ∧
    (t.byteAt (s.effAddr 1 % 4096)).toNat = (s.reg x).toNat / 10 % 10 ∧
    (t.byteAt (s.effAddr 2 % 4096)).toNat = (s.reg x).toNat % 10 ∧
    KeepsBytesExcept [s.effAddr 0 % 4096, s.effAddr 1 % 4096, s.effAddr 2 % 4096] s t ∧
    t.viol = (if 4096 ≤ s.effAddr 2 then s.viol ||| 0x04#8 else s.viol) ∧ t.pc.toNat = (s.pc.toNat + 2) % 65536 ∧
    KeepsExcept [.mem, .viol, .pc] s t

/-- R134: `V[0..X]` go to `I .. I + X` (each mod 4096, with `MEM_OOB` when one is 4096 or above); no other byte changes, and
`I` and every register stay. -/
def Obligations.StoreRegistersToMemory : Prop :=
  ∀ (x : Nibble) (s : State), s.Inv → ∃ t, exec (.ldMemVx x) s = .next t ∧
    (∀ k : Nibble, k.toNat ≤ x.toNat → t.byteAt (s.effAddr k.toNat % 4096) = s.reg k) ∧
    (∀ a, (∀ k : Nat, k ≤ x.toNat → a ≠ s.effAddr k % 4096) → t.byteAt a = s.byteAt a) ∧
    t.viol = (if 4096 ≤ s.effAddr x.toNat then s.viol ||| 0x04#8 else s.viol) ∧
    t.pc.toNat = (s.pc.toNat + 2) % 65536 ∧ KeepsExcept [.mem, .viol, .pc] s t

/-- R135: `V[0..X]` take the bytes at `I .. I + X` (each mod 4096, with `MEM_OOB` when one is 4096 or above); the registers
above `X`, `I` and every byte of memory stay. -/
def Obligations.LoadRegistersFromMemory : Prop :=
  ∀ (x : Nibble) (s : State), ∃ t, exec (.ldVxMem x) s = .next t ∧
    (∀ k : Nibble, k.toNat ≤ x.toNat → t.reg k = s.byteAt (s.effAddr k.toNat % 4096)) ∧
    (∀ k : Nibble, x.toNat < k.toNat → t.reg k = s.reg k) ∧
    t.viol = (if 4096 ≤ s.effAddr x.toNat then s.viol ||| 0x04#8 else s.viol) ∧
    t.pc.toNat = (s.pc.toNat + 2) % 65536 ∧ KeepsExcept [.regs, .viol, .pc] s t

/-- R47, R48: a write at `a` puts the byte at `a mod 4096` and nowhere else, and each access flags `MEM_OOB` exactly at 4096
or above. -/
def Obligations.MemoryWriteThenRead : Prop :=
  ∀ (s : State) (a : Nat) (b : Byte), s.Inv →
    (∀ c : Nat, ((s.memWrite a b).memRead c).1 = if c % 4096 = a % 4096 then b else (s.memRead c).1) ∧
    (s.memWrite a b).viol = (if 4096 ≤ a then s.viol ||| 0x04#8 else s.viol) ∧
    KeepsExcept [.mem, .viol] s (s.memWrite a b) ∧ KeepsBytesExcept [a % 4096] s (s.memWrite a b) ∧
    (s.memRead a).2.viol = (if 4096 ≤ a then s.viol ||| 0x04#8 else s.viol) ∧ KeepsExcept [.viol] s (s.memRead a).2

/-- R58, R59: registers stored over the word that a later `PC` names are what the fetch there reads. -/
def Obligations.StoredBytesAreFetched : Prop :=
  ∀ (x : Nibble) (s : State), s.Inv → 1 ≤ x.toNat → ∃ t, exec (.ldMemVx x) s = .next t ∧
    ∀ p : Word, p.toNat = s.i.toNat → (t.setPc p).fetchWord = wordOfBytes (s.reg 0#4) (s.reg 1#4)

/-- The model's choice (log 11; the spec has no list form of memory): two lists in the model's canonical form that read the
same everywhere are the same data. -/
def Obligations.CanonicalMemoriesThatReadAlikeAreEqual : Prop :=
  ∀ (font : Vector Byte 80) (m m' : List Host.Cell), Memory.wf font m = true → Memory.wf font m' = true →
    (∀ a, a < 4096 → Memory.read font m a = Memory.read font m' a) → m = m'

/-! ### The framebuffer (44_display.md) -/

/-- R140: `00E0` clears every byte, so every pixel, and touches nothing else. -/
def Obligations.ClearScreenUnsetsEveryPixel : Prop :=
  ∀ s : State, ∃ t, exec .cls s = .next t ∧ (∀ n, n < 256 → fbByte t.fb n = 0#8) ∧
    (∀ px py, px < 64 → py < 32 → fbPixel t.fb px py = false) ∧ t.pc.toNat = (s.pc.toNat + 2) % 65536 ∧
    KeepsExcept [.fb, .pc] s t

/-- Whether `DXYN` from state `s` has a 1 for pixel `(px, py)`: the pixel is `j` columns and `r` rows from the start,
wrapping, and bit `7 - j` of sprite byte `r`, read at `(I + r) mod 4096`, is 1 (R141, R142, R143). -/
def SpriteCovers (x y n : Nibble) (s : State) (px py : Nat) : Prop :=
  ∃ j r, j < 8 ∧ r < n.toNat ∧ px = ((s.reg x).toNat + j) % 64 ∧ py = ((s.reg y).toNat + r) % 32 ∧
    (s.byteAt (s.effAddr r % 4096)).getLsbD (7 - j) = true

/-- R141 to R144: `DXYN` toggles exactly the pixels its sprite covers, wrapping at both edges; `VF` is 1 exactly when a
covered pixel was set before; `MEM_OOB` is flagged exactly when a row lies at 4096 or above; nothing else changes. -/
def Obligations.DrawTogglesExactlyTheSprite : Prop :=
  ∀ (x y n : Nibble) (s : State), ∃ t, exec (.drw x y n) s = .next t ∧
    (∀ px py, px < 64 → py < 32 → SpriteCovers x y n s px py → fbPixel t.fb px py = !(fbPixel s.fb px py)) ∧
    (∀ px py, px < 64 → py < 32 → ¬ SpriteCovers x y n s px py → fbPixel t.fb px py = fbPixel s.fb px py) ∧
    ((∃ px py, px < 64 ∧ py < 32 ∧ SpriteCovers x y n s px py ∧ fbPixel s.fb px py = true) → t.reg vf = 1#8) ∧
    ((¬ ∃ px py, px < 64 ∧ py < 32 ∧ SpriteCovers x y n s px py ∧ fbPixel s.fb px py = true) → t.reg vf = 0#8) ∧
    t.viol = (if 0 < n.toNat ∧ 4096 ≤ s.effAddr (n.toNat - 1) then s.viol ||| 0x04#8 else s.viol) ∧
    t.pc.toNat = (s.pc.toNat + 2) % 65536 ∧ KeepsRegsExcept [vf] s t ∧ KeepsExcept [.fb, .regs, .viol, .pc] s t

/-- R141, 90_conflicts.md C5: drawing a sprite twice restores the framebuffer whenever the first draw left both coordinate
registers as they were, as it does every register but `VF`. -/
def Obligations.DrawTwiceRestoresTheScreen : Prop :=
  ∀ (x y n : Nibble) (s : State),
    ∃ t u, exec (.drw x y n) s = .next t ∧ exec (.drw x y n) t = .next u ∧ (∀ k, k ≠ vf → t.reg k = s.reg k) ∧
      (t.reg x = s.reg x → t.reg y = s.reg y → u.fb = s.fb)

/-- R142: the byte-level form of drawing a sprite byte agrees with the pixel-level one the machine uses. -/
def Obligations.ByteLevelDrawRefinesPixelLevel : Prop :=
  ∀ (b : Byte) (x0 y : Nat) (d : Framebuffer × Bool), x0 < 64 → y < 32 → drawBits b x0 y 8 d = drawBytes b x0 y d

/-! ### Timers and keys (45_timers_keys.md, 60_exceptions.md R168, R171) -/

/-- R152, R153: `FX15` and `FX18` write the timers from `V[X]`; the accumulators and all else stay; a nonzero
`ST` turns the sound output on at once, 0 off. -/
def Obligations.TimerWrites : Prop :=
  ∀ (x : Nibble) (s : State),
    (∃ t, exec (.ldDtVx x) s = .next t ∧ t.dt = s.reg x ∧ t.pc.toNat = (s.pc.toNat + 2) % 65536 ∧
      KeepsExcept [.dt, .pc] s t) ∧
    (∃ t, exec (.ldStVx x) s = .next t ∧ t.st = s.reg x ∧ (t.soundOn = true ↔ (s.reg x).toNat ≠ 0) ∧
      t.pc.toNat = (s.pc.toNat + 2) % 65536 ∧ KeepsExcept [.st, .pc] s t)

/-- R151: `FX0A` holds, changing nothing, while no key differs from its snapshot; else it writes the lowest-numbered key
that differs, on a press or a release alike, and advances. -/
def Obligations.KeyWaitHoldsOrReportsLowestChange : Prop :=
  ∀ (x : Nibble) (s : State),
    ((∀ k, k < 16 → s.keypad.getLsbD k = s.keypadPrev.getLsbD k) →
      ∃ t, exec (.ldVxK x) s = .next t ∧ KeepsExcept [] s t) ∧
    (∀ k, k < 16 → s.keypad.getLsbD k ≠ s.keypadPrev.getLsbD k →
      (∀ j, j < k → s.keypad.getLsbD j = s.keypadPrev.getLsbD j) →
      ∃ t, exec (.ldVxK x) s = .next t ∧ (t.reg x).toNat = k ∧ AdvancesWritingRegs [x] s t)

/-- R168: a tick takes 1 from each timer, floored at 0, each independently, and changes nothing else; `n` ticks take `n`. -/
def Obligations.TimersCountDownToZero : Prop :=
  ∀ (s : State) (n : Nat),
    s.timerTick.dt.toNat = s.dt.toNat - 1 ∧ s.timerTick.st.toNat = s.st.toNat - 1 ∧ KeepsExcept [.dt, .st] s s.timerTick ∧
    (runTicks n s).dt.toNat = s.dt.toNat - n ∧ (runTicks n s).st.toNat = s.st.toNat - n

/-- R171: after every step, whatever it ran, the scheduler copies `KEYPAD` into `KEYPAD_PREV` and changes nothing else. -/
def Obligations.SnapshotFollowsEveryStep : Prop :=
  ∀ s t : State, step s = .next t →
    ∃ u, cpuCycle s = .next u ∧ u.keypadPrev = s.keypad ∧ KeepsExcept [.keypadPrev] t u

/-- R197: whatever a cycle ran, an `FX0A` right after it waits (nothing changes), until the host changes the keypad; a key
the host then changes ends the wait. -/
def Obligations.KeyWaitEndsOnlyByTheHost : Prop :=
  ∀ (x : Nibble) (s u : State), cpuCycle s = .next u →
    (∃ t, exec (.ldVxK x) u = .next t ∧ KeepsExcept [] u t) ∧
    ∀ k : Word, k ≠ u.keypad → ∃ t, exec (.ldVxK x) (keypadWrite k u) = .next t ∧
      t.pc.toNat = (u.pc.toNat + 2) % 65536

/-! ### Whole-machine rules -/

/-- The parts an instruction's rule names as written (R86 for `PC`; R47, R48, R89, R91, R107 for `VIOL`). -/
def writtenParts (i : Instr) : List Part :=
  match i with
  | .cls => [.pc, .fb]
  | .ret => [.pc, .sp, .viol]
  | .call _ => [.pc, .sp, .stack, .viol]
  | .sys _ | .jp _ | .jpV0 _ | .seImm _ _ | .sneImm _ _ | .seReg _ _ | .sneReg _ _ => [.pc]
  | .skp _ | .sknp _ => [.pc, .viol]
  | .ldImm _ _ | .addImm _ _ | .ldReg _ _ | .orReg _ _ | .andReg _ _ | .xorReg _ _ => [.pc, .regs]
  | .addReg _ _ | .subReg _ _ | .shr _ _ | .subnReg _ _ | .shl _ _ => [.pc, .regs]
  | .ldVxDt _ | .ldVxK _ => [.pc, .regs]
  | .rnd _ _ => [.pc, .regs, .draws]
  | .ldI _ | .addI _ | .ldF _ => [.pc, .i]
  | .drw _ _ _ => [.pc, .fb, .regs, .viol]
  | .ldDtVx _ => [.pc, .dt]
  | .ldStVx _ => [.pc, .st]
  | .ldB _ | .ldMemVx _ => [.pc, .mem, .viol]
  | .ldVxMem _ => [.pc, .regs, .viol]

/-- R15: an instruction changes only the parts its rule names: in particular `I` only by `ANNN`, `FX1E`, `FX29`, the stack
only by `2NNN`, the framebuffer only by `00E0`, `DXYN`, the keypad, its snapshot and the accumulators by none. -/
def Obligations.InstructionsChangeOnlyWhatTheirRuleNames : Prop :=
  ∀ (i : Instr) (s t : State), exec i s = .next t → KeepsExcept (writtenParts i) s t

/-- The instructions that may change `VF` by R22: the flag writers, and those with `X` = F that write a register as data. -/
def mayWriteVf (i : Instr) : Prop :=
  match i with
  | .addReg _ _ | .subReg _ _ | .shr _ _ | .subnReg _ _ | .shl _ _ | .drw _ _ _ => True
  | .ldImm x _ | .addImm x _ | .ldReg x _ | .orReg x _ | .andReg x _ | .xorReg x _ | .rnd x _ => x = vf
  | .ldVxDt x | .ldVxK x | .ldVxMem x => x = vf
  | .cls | .ret | .sys _ | .jp _ | .call _ | .jpV0 _ | .seImm _ _ | .sneImm _ _ | .seReg _ _ | .sneReg _ _ => False
  | .skp _ | .sknp _ | .ldI _ | .addI _ | .ldF _ | .ldDtVx _ | .ldStVx _ | .ldB _ | .ldMemVx _ => False

/-- R22: `VF` changes only by the instructions that write it as a flag, or as an ordinary register named F. -/
def Obligations.VfChangesOnlyByItsNamedWriters : Prop :=
  ∀ (i : Instr) (s t : State), exec i s = .next t → t.reg vf ≠ s.reg vf → mayWriteVf i

/-- R33, R161: no step clears a bit of `VIOL`, and a bit newly set has its cause: the fetch's for bits 3 and 4, else the
instruction executed; bits 6 and 7 are never set. -/
def Obligations.ViolationBitsAreStickyAndHaveCauses : Prop :=
  ∀ (s t : State) (i : Instr), decode s.fetchWord = .ok i → step s = .next t →
    (∀ j, s.viol.getLsbD j = true → t.viol.getLsbD j = true) ∧
    (∀ j, s.viol.getLsbD j = false → t.viol.getLsbD j = true →
      (j = 0 ∧ s.sp.toNat = 16 ∧ ∃ nnn, i = .call nnn) ∨
      (j = 1 ∧ s.sp.toNat = 0 ∧ i = .ret) ∨
      (j = 2 ∧ ((∃ x, i = .ldB x ∧ 4096 ≤ s.effAddr 2) ∨ (∃ x, i = .ldMemVx x ∧ 4096 ≤ s.effAddr x.toNat) ∨
        (∃ x, i = .ldVxMem x ∧ 4096 ≤ s.effAddr x.toNat) ∨
        (∃ x y n, i = .drw x y n ∧ 0 < n.toNat ∧ 4096 ≤ s.effAddr (n.toNat - 1)))) ∨
      (j = 3 ∧ 0xFFE < s.pc.toNat) ∨ (j = 4 ∧ s.pc.toNat % 2 = 1) ∨
      (j = 5 ∧ ∃ x, (i = .skp x ∨ i = .sknp x) ∧ 15 < (s.reg x).toNat))

/-- R28, R32, R33, R161: no instruction reads `ST`, the accumulators or `VIOL`: two states that differ in them only run
every instruction to states that differ in them only. -/
def Obligations.InstructionsDoNotReadHiddenState : Prop :=
  ∀ (i : Instr) (s s' t : State), s'.mem = s.mem → KeepsExcept [.st, .accT, .accC, .viol] s s' → exec i s = .next t →
    ∃ t', exec i s' = .next t' ∧ KeepsExcept [.st, .accT, .accC, .viol] t t'

/-- R30: no instruction but `FX0A` reads `KEYPAD_PREV`: two states that differ in it only run every other instruction to
states that differ in it only. -/
def Obligations.OnlyKeyWaitReadsTheSnapshot : Prop :=
  ∀ (i : Instr) (s s' t : State), (∀ x, i ≠ .ldVxK x) → s'.mem = s.mem → KeepsExcept [.keypadPrev] s s' →
    exec i s = .next t → ∃ t', exec i s' = .next t' ∧ KeepsExcept [.keypadPrev] t t'

/-- R160: in a state with a legal `SP` every instruction answers a next state: there is no trap. -/
def Obligations.EveryInstructionCompletes : Prop :=
  ∀ (i : Instr) (s : State), s.sp.toNat ≤ 16 → ∃ t, exec i s = .next t

/-! ### Reset, load, the scheduler and the host (60_exceptions.md, 70_reset_and_hazards.md) -/

/-- R34: after RESET every field has the value of the table, whatever the parameters. -/
def Obligations.ResetValues : Prop :=
  ∀ s : State, ∃ t, transact .reset s = .next (t, .none) ∧
    (∀ (a : Nat) (h : a < 80), t.byteAt a = s.cfg.font[a]) ∧ (∀ a, 80 ≤ a → a < 4096 → t.byteAt a = 0#8) ∧
    (∀ x, t.reg x = 0#8) ∧ t.i = 0#16 ∧ t.pc = s.cfg.loadOffset ∧ t.sp = 0#8 ∧
    (∀ (j : Nat) (h : j < 16), t.stack[j] = 0#16) ∧ t.dt = 0#8 ∧ t.st = 0#8 ∧ t.keypad = 0#16 ∧ t.keypadPrev = 0#16 ∧
    (∀ (n : Nat) (h : n < 256), t.fb[n] = 0#8) ∧ t.accT = 0 ∧ t.accC = 0 ∧ t.viol = 0#8

/-- R194: RESET depends only on the parameters (all but the model's own count of draws), so RESET twice is RESET once, and
LOAD of the same bytes gives the same state. -/
def Obligations.ResetDependsOnlyOnParameters : Prop :=
  ∀ s s' : State, hostReset (hostReset s) = hostReset s ∧
    (s.cfg = s'.cfg → KeepsExcept [.draws] (hostReset s) (hostReset s') ∧
      ∀ bytes, KeepsExcept [.draws] (installImage bytes s) (installImage bytes s'))

/-- R191: an image that fits is installed from `LOAD_OFFSET` on over the reset state, nothing else changes, and the answer
is `OK`. -/
def Obligations.LoadInstallsAnImageThatFits : Prop :=
  ∀ (bytes : List Byte) (s : State), s.cfg.wf → s.cfg.loadOffset.toNat + bytes.length ≤ 4096 →
    ∃ t, transact (.load bytes) s = .next (t, .ok) ∧
      (∀ (j : Nat) (h : j < bytes.length), t.byteAt (s.cfg.loadOffset.toNat + j) = bytes[j]) ∧
      (∀ a, a < s.cfg.loadOffset.toNat ∨ s.cfg.loadOffset.toNat + bytes.length ≤ a →
        t.byteAt a = (hostReset s).byteAt a) ∧
      KeepsExcept [.mem] (hostReset s) t

/-- R192: an image that does not fit leaves the reset state, nothing copied, and the answer is `TOO_LARGE`. -/
def Obligations.LoadRefusesAnOversizedImage : Prop :=
  ∀ (bytes : List Byte) (s : State), s.cfg.wf → 4096 < s.cfg.loadOffset.toNat + bytes.length →
    transact (.load bytes) s = .next (hostReset s, .tooLarge)

/-- R175: KEYPAD_WRITE changes `KEYPAD` and nothing else; the reads answer the named state and change nothing; `SOUND_ON` is
1 exactly when `ST` is not 0 (R172). -/
def Obligations.KeypadWriteAndReads : Prop :=
  ∀ (k : Word) (s : State),
    (∃ t, transact (.keypadWrite k) s = .next (t, .none) ∧ t.keypad = k ∧ KeepsExcept [.keypad] s t) ∧
    transact .readFb s = .next (s, .fb s.fb) ∧ transact .readViol s = .next (s, .viol s.viol) ∧
    (∃ on : Bool, transact .readTimers s = .next (s, .timers s.dt s.st on) ∧ (on = true ↔ s.st.toNat ≠ 0))

/-- R169, R170, R173: where the steps due answer, ADVANCE(q) answers too, and is all due ticks, `(ACC_T + q) div` the timer
period of them, and after them all due CPU cycles, `(ACC_C + q) div` the CPU period of them; the remainders stay in the
accumulators. -/
def Obligations.AdvanceIsDueTicksThenDueCycles : Prop :=
  ∀ (q : Nat) (s u : State), s.cfg.wf →
    runCycles ((s.accC + q) / s.cfg.cpuPeriodQ) (runTicks ((s.accT + q) / s.cfg.timerPeriodQ) s) = .next u →
    ∃ t, advance q s = .next t ∧ t.accT = (s.accT + q) % s.cfg.timerPeriodQ ∧ t.accC = (s.accC + q) % s.cfg.cpuPeriodQ ∧
      t.mem = u.mem ∧ KeepsExcept [.accT, .accC] u t

/-- R169: ADVANCE(0) between transactions does nothing. -/
def Obligations.AdvanceByZeroDoesNothing : Prop :=
  ∀ s : State, s.BetweenTransactions → advance 0 s = .next s

/-- R35: the reset state meets the invariant, for every parameters; with periods that R9 allows also the bounds of R32. -/
def Obligations.ResetMeetsTheInvariant : Prop :=
  ∀ c : Config, (State.resetWith c).Inv ∧ (c.wf → (State.resetWith c).BetweenTransactions)

/-- R35, R160, R177: from every state that meets the invariant a step answers a next state that meets it: the block never
stops, `SP` stays in 0..16, `VIOL[7:6]` stays 0 and memory stays canonical. -/
def Obligations.StepNeverStopsAndKeepsTheInvariant : Prop :=
  ∀ s : State, s.Inv → ∃ t, step s = .next t ∧ t.Inv

/-- R32, R35, R176: from every state that meets the invariant between transactions, with parameters R7 and R9 allow, every
transaction completes, meets it again and leaves the parameters alone. -/
def Obligations.TransactionsCompleteAndKeepTheInvariant : Prop :=
  ∀ (tr : Transaction) (s : State), s.cfg.wf → s.BetweenTransactions →
    ∃ t r, transact tr s = .next (t, r) ∧ t.BetweenTransactions ∧ t.cfg = s.cfg

/-- R177: every run of transactions completes and ends between transactions again: the block never stops by itself. -/
def Obligations.HostRunsAlwaysComplete : Prop :=
  ∀ (ts : List Transaction) (s : State), s.cfg.wf → s.BetweenTransactions →
    ∃ t rs, runHost ts s = .next (t, rs) ∧ rs.length = ts.length ∧ t.BetweenTransactions

/-- R173: however the host slices time into ADVANCE calls, the accumulators end as the remainders of the summed quanta. -/
def Obligations.SlicingLeavesTheSameRemainders : Prop :=
  ∀ (qs : List Nat) (s : State), s.cfg.wf → s.BetweenTransactions →
    ∃ t rs, runHost (qs.map .advance) s = .next (t, rs) ∧ t.accT = (s.accT + qs.sum) % s.cfg.timerPeriodQ ∧
      t.accC = (s.accC + qs.sum) % s.cfg.cpuPeriodQ

/-- R33, R171, R200: an ADVANCE leaves the keypad and the parameters alone and clears no bit of `VIOL`; its snapshot is the
keypad when a step was due, and the old one when none was. -/
def Obligations.AdvanceKeepsKeypadAndViolations : Prop :=
  ∀ (q : Nat) (s t : State), s.cfg.wf → advance q s = .next t →
    t.keypad = s.keypad ∧ t.cfg = s.cfg ∧ (∀ j, s.viol.getLsbD j = true → t.viol.getLsbD j = true) ∧
    (s.cfg.cpuPeriodQ ≤ s.accC + q → t.keypadPrev = s.keypad) ∧
    (s.accC + q < s.cfg.cpuPeriodQ → t.keypadPrev = s.keypadPrev)
end

