-- ==== Sys2Proof/Laws/Decode.lean ====
section
/-! SUPPORT. The fields of a packed word, and the byte order of a word. -/

namespace Sys2Proof

variable (o x y n : Nibble) (nn : Byte) (nnn : Addr12) (w : Word)

@[simp] theorem opField_packXYN : opField (packXYN o x y n) = o := by
  apply BitVec.eq_of_getLsbD_eq
  intro i hi
  simp only [packXYN, opField, BitVec.getLsbD_extractLsb', BitVec.getLsbD_append]
  interval_cases i <;> simp

@[simp] theorem xField_packXYN : xField (packXYN o x y n) = x := by
  apply BitVec.eq_of_getLsbD_eq
  intro i hi
  simp only [packXYN, xField, BitVec.getLsbD_extractLsb', BitVec.getLsbD_append]
  interval_cases i <;> simp

@[simp] theorem yField_packXYN : yField (packXYN o x y n) = y := by
  apply BitVec.eq_of_getLsbD_eq
  intro i hi
  simp only [packXYN, yField, BitVec.getLsbD_extractLsb', BitVec.getLsbD_append]
  interval_cases i <;> simp

@[simp] theorem nField_packXYN : nField (packXYN o x y n) = n := by
  apply BitVec.eq_of_getLsbD_eq
  intro i hi
  simp only [packXYN, nField, BitVec.getLsbD_extractLsb', BitVec.getLsbD_append]
  interval_cases i <;> simp

@[simp] theorem opField_packXNN : opField (packXNN o x nn) = o := by
  apply BitVec.eq_of_getLsbD_eq
  intro i hi
  simp only [packXNN, opField, BitVec.getLsbD_extractLsb', BitVec.getLsbD_append]
  interval_cases i <;> simp

@[simp] theorem xField_packXNN : xField (packXNN o x nn) = x := by
  apply BitVec.eq_of_getLsbD_eq
  intro i hi
  simp only [packXNN, xField, BitVec.getLsbD_extractLsb', BitVec.getLsbD_append]
  interval_cases i <;> simp

@[simp] theorem nnField_packXNN : nnField (packXNN o x nn) = nn := by
  apply BitVec.eq_of_getLsbD_eq
  intro i hi
  simp only [packXNN, nnField, BitVec.getLsbD_extractLsb', BitVec.getLsbD_append]
  interval_cases i <;> simp

@[simp] theorem opField_packNNN : opField (packNNN o nnn) = o := by
  apply BitVec.eq_of_getLsbD_eq
  intro i hi
  simp only [packNNN, opField, BitVec.getLsbD_extractLsb', BitVec.getLsbD_append]
  interval_cases i <;> simp

@[simp] theorem nnnField_packNNN : nnnField (packNNN o nnn) = nnn := by
  apply BitVec.eq_of_getLsbD_eq
  intro i hi
  simp only [packNNN, nnnField, BitVec.getLsbD_extractLsb', BitVec.getLsbD_append]
  interval_cases i <;> simp

/-- A word is its four nibbles. -/
theorem packXYN_fields : packXYN (opField w) (xField w) (yField w) (nField w) = w := by
  apply BitVec.eq_of_getLsbD_eq
  intro i hi
  simp only [packXYN, opField, xField, yField, nField, BitVec.getLsbD_extractLsb', BitVec.getLsbD_append]
  interval_cases i <;> simp

/-- A word is `op`, `X` and `NN`. -/
theorem packXNN_fields : packXNN (opField w) (xField w) (nnField w) = w := by
  apply BitVec.eq_of_getLsbD_eq
  intro i hi
  simp only [packXNN, opField, xField, nnField, BitVec.getLsbD_extractLsb', BitVec.getLsbD_append]
  interval_cases i <;> simp

/-- A word is `op` and `NNN`. -/
theorem packNNN_fields : packNNN (opField w) (nnnField w) = w := by
  apply BitVec.eq_of_getLsbD_eq
  intro i hi
  simp only [packNNN, opField, nnnField, BitVec.getLsbD_extractLsb', BitVec.getLsbD_append]
  interval_cases i <;> simp

/-- The two bytes of a word, read back in the same order, are the word (R50). -/
@[simp] theorem wordOfBytes_bytes : wordOfBytes (highByte w) (lowByte w) = w := by
  apply BitVec.eq_of_getLsbD_eq
  intro i hi
  simp only [wordOfBytes, highByte, lowByte, BitVec.getLsbD_extractLsb', BitVec.getLsbD_append]
  interval_cases i <;> simp

/-- What the decoder reads at the head of a word's bytes is the word's decoding. -/
theorem decodeBytes_bytesOfWord (rest : List Byte) :
    decodeBytes (bytesOfWord w ++ rest) =
      match decode w with
      | .ok i => .ok (i, rest)
      | .error u => .error u := by
  cases h : decode w <;> simp [bytesOfWord, decodeBytes, h]

end Sys2Proof
end

