-- ==== Sys2Proof/Laws/Memory.lean ====
section
/-! SUPPORT. The laws of the memory list: read after write, and the canonical form. -/

namespace Sys2Proof.Machine

variable {font : Vector Byte 80}

@[simp] theorem Memory.read_nil (a : Nat) : Memory.read font [] a = Memory.background font a := rfl

theorem Memory.read_cons (c : Host.Cell) (m : List Host.Cell) (a : Nat) :
    Memory.read font (c :: m) a = if c.1 = a then c.2 else Memory.read font m a := rfl

@[simp] theorem Memory.wf_nil : Memory.wf font [] = true := rfl

theorem Memory.wfFrom_cons (lo : Nat) (c : Host.Cell) (m : List Host.Cell) :
    Memory.wfFrom font lo (c :: m) = true ↔
      lo ≤ c.1 ∧ c.1 < 4096 ∧ c.2 ≠ Memory.background font c.1 ∧ Memory.wfFrom font (c.1 + 1) m = true := by
  simp [Memory.wfFrom, and_assoc]

/-- A list that is canonical from `lo` on reads below `lo` as unlisted. -/
theorem Memory.read_below {lo : Nat} {m : List Host.Cell} (h : Memory.wfFrom font lo m = true) {a : Nat} (ha : a < lo) :
    Memory.read font m a = Memory.background font a := by
  induction m generalizing lo with
  | nil => rfl
  | cons c m ih =>
    obtain ⟨h1, -, -, h4⟩ := (Memory.wfFrom_cons lo c m).mp h
    rw [Memory.read_cons, if_neg (by omega)]
    exact ih h4 (by omega)

/-- Canonical from `lo` on is canonical from any lower address on. -/
theorem Memory.wfFrom_mono {lo lo' : Nat} {m : List Host.Cell} (h : Memory.wfFrom font lo m = true) (hl : lo' ≤ lo) :
    Memory.wfFrom font lo' m = true := by
  cases m with
  | nil => rfl
  | cons c m =>
    obtain ⟨h1, h2, h3, h4⟩ := (Memory.wfFrom_cons lo c m).mp h
    exact (Memory.wfFrom_cons lo' c m).mpr ⟨by omega, h2, h3, h4⟩

/-- A write leaves every other address alone, whatever the list. -/
theorem Memory.read_write_other {a a' : Nat} (h : a' ≠ a) (m : List Host.Cell) (b : Byte) :
    Memory.read font (Memory.write font m a b) a' = Memory.read font m a' := by
  induction m with
  | nil =>
    simp only [Memory.write]
    split
    · rfl
    · simp [Memory.read_cons, Ne.symm h]
  | cons c m ih =>
    simp only [Memory.write]
    split
    · simp only [Memory.read_cons, ih]
    · split
      · split
        · rename_i h2; simp [Memory.read_cons, h2, Ne.symm h]
        · rfl
      · split
        · rename_i h2; simp [Memory.read_cons, h2, Ne.symm h]
        · simp [Memory.read_cons, Ne.symm h]

/-- A write is read back, in canonical memory. -/
theorem Memory.read_write_same {lo : Nat} {m : List Host.Cell} (hm : Memory.wfFrom font lo m = true) (a : Nat) (b : Byte) :
    Memory.read font (Memory.write font m a b) a = b := by
  induction m generalizing lo with
  | nil =>
    simp only [Memory.write]
    split
    · rename_i h; simp [h]
    · simp [Memory.read_cons]
  | cons c m ih =>
    obtain ⟨-, -, -, h4⟩ := (Memory.wfFrom_cons lo c m).mp hm
    simp only [Memory.write]
    split
    · rename_i h
      rw [Memory.read_cons, if_neg (by omega)]
      exact ih h4
    · rename_i hlt
      split
      · rename_i hb
        split
        · rename_i he
          rw [Memory.read_below h4 (by omega), hb]
        · rename_i he
          have hc : Memory.wfFrom font c.1 (c :: m) = true := (Memory.wfFrom_cons c.1 c m).mpr
            ⟨Nat.le_refl _, ((Memory.wfFrom_cons lo c m).mp hm).2⟩
          rw [Memory.read_below hc (by omega), hb]
      · simp [Memory.read_cons]

/-- A write keeps the canonical form. -/
theorem Memory.wfFrom_write {lo : Nat} {m : List Host.Cell} (hm : Memory.wfFrom font lo m = true) {a : Nat} (hlo : lo ≤ a)
    (ha : a < 4096) (b : Byte) : Memory.wfFrom font lo (Memory.write font m a b) = true := by
  induction m generalizing lo with
  | nil =>
    simp only [Memory.write]
    split
    · rfl
    · rename_i h; exact (Memory.wfFrom_cons lo _ _).mpr ⟨hlo, ha, h, rfl⟩
  | cons c m ih =>
    obtain ⟨h1, h2, h3, h4⟩ := (Memory.wfFrom_cons lo c m).mp hm
    simp only [Memory.write]
    split
    · rename_i h
      exact (Memory.wfFrom_cons lo c _).mpr ⟨h1, h2, h3, ih h4 (by omega)⟩
    · rename_i hlt
      have htail : Memory.wfFrom font (a + 1) (if c.1 = a then m else c :: m) = true := by
        split
        · rename_i he; exact he ▸ h4
        · exact (Memory.wfFrom_cons _ c m).mpr ⟨by omega, h2, h3, h4⟩
      split
      · exact Memory.wfFrom_mono htail (by omega)
      · rename_i hb; exact (Memory.wfFrom_cons lo _ _).mpr ⟨hlo, ha, hb, htail⟩

theorem Memory.wf_write {m : List Host.Cell} (hm : Memory.wf font m = true) {a : Nat} (ha : a < 4096) (b : Byte) :
    Memory.wf font (Memory.write font m a b) = true :=
  Memory.wfFrom_write hm (Nat.zero_le _) ha b

/-- Copying an image into memory keeps the canonical form, when the image ends inside memory. -/
theorem Memory.wf_copyIn {m : List Host.Cell} (hm : Memory.wf font m = true) (bytes : List Byte) (a : Nat)
    (h : a + bytes.length ≤ 4096) : Memory.wf font (Memory.copyIn font m a bytes) = true := by
  induction bytes generalizing a with
  | nil => exact hm
  | cons b rest ih =>
    simp only [List.length_cons] at h
    exact Memory.wf_write (ih (a + 1) (by omega)) (by omega) b

/-- Copying an image writes nothing below its start or from its end on. -/
theorem Memory.read_copyIn_outside (m : List Host.Cell) (bytes : List Byte) (a : Nat) {a' : Nat}
    (h : a' < a ∨ a + bytes.length ≤ a') :
    Memory.read font (Memory.copyIn font m a bytes) a' = Memory.read font m a' := by
  induction bytes generalizing a with
  | nil => rfl
  | cons b rest ih =>
    simp only [List.length_cons] at h
    rw [Memory.copyIn, Memory.read_write_other (by omega)]
    exact ih (a + 1) (by omega)

/-- Copying an image puts its byte `j` at `a + j`. -/
theorem Memory.read_copyIn_inside {m : List Host.Cell} (hm : Memory.wf font m = true) (bytes : List Byte) (a : Nat)
    (h : a + bytes.length ≤ 4096) (j : Nat) (hj : j < bytes.length) :
    Memory.read font (Memory.copyIn font m a bytes) (a + j) = bytes[j] := by
  induction bytes generalizing a j with
  | nil => simp at hj
  | cons b rest ih =>
    simp only [List.length_cons] at h hj
    have hw : Memory.wf font (Memory.copyIn font m (a + 1) rest) = true := Memory.wf_copyIn hm rest (a + 1) (by omega)
    cases j with
    | zero => simpa [Memory.copyIn] using Memory.read_write_same hw a b
    | succ j =>
      rw [Memory.copyIn, Memory.read_write_other (by omega)]
      have := ih (a + 1) (by omega) j (by omega)
      rw [show a + (j + 1) = a + 1 + j by omega, this, List.getElem_cons_succ]

end Sys2Proof.Machine
end

