-- ==== Sys2Proof/Laws/State.lean ====
section
/-! SUPPORT. One lemma per field per update of State, so that no proof unfolds a record update. -/

namespace Sys2Proof.Machine

variable (s : State)

/-! ### setReg -/

@[simp] theorem State.setReg_mem (x : Nibble) (b : Byte) : (s.setReg x b).mem = s.mem := rfl
@[simp] theorem State.setReg_i (x : Nibble) (b : Byte) : (s.setReg x b).i = s.i := rfl
@[simp] theorem State.setReg_pc (x : Nibble) (b : Byte) : (s.setReg x b).pc = s.pc := rfl
@[simp] theorem State.setReg_stack (x : Nibble) (b : Byte) : (s.setReg x b).stack = s.stack := rfl
@[simp] theorem State.setReg_sp (x : Nibble) (b : Byte) : (s.setReg x b).sp = s.sp := rfl
@[simp] theorem State.setReg_dt (x : Nibble) (b : Byte) : (s.setReg x b).dt = s.dt := rfl
@[simp] theorem State.setReg_st (x : Nibble) (b : Byte) : (s.setReg x b).st = s.st := rfl
@[simp] theorem State.setReg_keypad (x : Nibble) (b : Byte) : (s.setReg x b).keypad = s.keypad := rfl
@[simp] theorem State.setReg_keypadPrev (x : Nibble) (b : Byte) : (s.setReg x b).keypadPrev = s.keypadPrev := rfl
@[simp] theorem State.setReg_fb (x : Nibble) (b : Byte) : (s.setReg x b).fb = s.fb := rfl
@[simp] theorem State.setReg_accT (x : Nibble) (b : Byte) : (s.setReg x b).accT = s.accT := rfl
@[simp] theorem State.setReg_accC (x : Nibble) (b : Byte) : (s.setReg x b).accC = s.accC := rfl
@[simp] theorem State.setReg_viol (x : Nibble) (b : Byte) : (s.setReg x b).viol = s.viol := rfl
@[simp] theorem State.setReg_draws (x : Nibble) (b : Byte) : (s.setReg x b).draws = s.draws := rfl
@[simp] theorem State.setReg_cfg (x : Nibble) (b : Byte) : (s.setReg x b).cfg = s.cfg := rfl
@[simp] theorem State.setReg_byteAt (x : Nibble) (b : Byte) (a : Nat) : (s.setReg x b).byteAt a = s.byteAt a := rfl

/-! ### setI -/

@[simp] theorem State.setI_mem (b : Word) : (s.setI b).mem = s.mem := rfl
@[simp] theorem State.setI_v (b : Word) : (s.setI b).v = s.v := rfl
@[simp] theorem State.setI_i (b : Word) : (s.setI b).i = b := rfl
@[simp] theorem State.setI_pc (b : Word) : (s.setI b).pc = s.pc := rfl
@[simp] theorem State.setI_stack (b : Word) : (s.setI b).stack = s.stack := rfl
@[simp] theorem State.setI_sp (b : Word) : (s.setI b).sp = s.sp := rfl
@[simp] theorem State.setI_dt (b : Word) : (s.setI b).dt = s.dt := rfl
@[simp] theorem State.setI_st (b : Word) : (s.setI b).st = s.st := rfl
@[simp] theorem State.setI_keypad (b : Word) : (s.setI b).keypad = s.keypad := rfl
@[simp] theorem State.setI_keypadPrev (b : Word) : (s.setI b).keypadPrev = s.keypadPrev := rfl
@[simp] theorem State.setI_fb (b : Word) : (s.setI b).fb = s.fb := rfl
@[simp] theorem State.setI_accT (b : Word) : (s.setI b).accT = s.accT := rfl
@[simp] theorem State.setI_accC (b : Word) : (s.setI b).accC = s.accC := rfl
@[simp] theorem State.setI_viol (b : Word) : (s.setI b).viol = s.viol := rfl
@[simp] theorem State.setI_draws (b : Word) : (s.setI b).draws = s.draws := rfl
@[simp] theorem State.setI_cfg (b : Word) : (s.setI b).cfg = s.cfg := rfl
@[simp] theorem State.setI_reg (b : Word) (y : Nibble) : (s.setI b).reg y = s.reg y := rfl
@[simp] theorem State.setI_byteAt (b : Word) (a : Nat) : (s.setI b).byteAt a = s.byteAt a := rfl

/-! ### setPc -/

@[simp] theorem State.setPc_mem (b : Word) : (s.setPc b).mem = s.mem := rfl
@[simp] theorem State.setPc_v (b : Word) : (s.setPc b).v = s.v := rfl
@[simp] theorem State.setPc_i (b : Word) : (s.setPc b).i = s.i := rfl
@[simp] theorem State.setPc_pc (b : Word) : (s.setPc b).pc = b := rfl
@[simp] theorem State.setPc_stack (b : Word) : (s.setPc b).stack = s.stack := rfl
@[simp] theorem State.setPc_sp (b : Word) : (s.setPc b).sp = s.sp := rfl
@[simp] theorem State.setPc_dt (b : Word) : (s.setPc b).dt = s.dt := rfl
@[simp] theorem State.setPc_st (b : Word) : (s.setPc b).st = s.st := rfl
@[simp] theorem State.setPc_keypad (b : Word) : (s.setPc b).keypad = s.keypad := rfl
@[simp] theorem State.setPc_keypadPrev (b : Word) : (s.setPc b).keypadPrev = s.keypadPrev := rfl
@[simp] theorem State.setPc_fb (b : Word) : (s.setPc b).fb = s.fb := rfl
@[simp] theorem State.setPc_accT (b : Word) : (s.setPc b).accT = s.accT := rfl
@[simp] theorem State.setPc_accC (b : Word) : (s.setPc b).accC = s.accC := rfl
@[simp] theorem State.setPc_viol (b : Word) : (s.setPc b).viol = s.viol := rfl
@[simp] theorem State.setPc_draws (b : Word) : (s.setPc b).draws = s.draws := rfl
@[simp] theorem State.setPc_cfg (b : Word) : (s.setPc b).cfg = s.cfg := rfl
@[simp] theorem State.setPc_reg (b : Word) (y : Nibble) : (s.setPc b).reg y = s.reg y := rfl
@[simp] theorem State.setPc_byteAt (b : Word) (a : Nat) : (s.setPc b).byteAt a = s.byteAt a := rfl

/-! ### setSp -/

@[simp] theorem State.setSp_mem (b : Byte) : (s.setSp b).mem = s.mem := rfl
@[simp] theorem State.setSp_v (b : Byte) : (s.setSp b).v = s.v := rfl
@[simp] theorem State.setSp_i (b : Byte) : (s.setSp b).i = s.i := rfl
@[simp] theorem State.setSp_pc (b : Byte) : (s.setSp b).pc = s.pc := rfl
@[simp] theorem State.setSp_stack (b : Byte) : (s.setSp b).stack = s.stack := rfl
@[simp] theorem State.setSp_sp (b : Byte) : (s.setSp b).sp = b := rfl
@[simp] theorem State.setSp_dt (b : Byte) : (s.setSp b).dt = s.dt := rfl
@[simp] theorem State.setSp_st (b : Byte) : (s.setSp b).st = s.st := rfl
@[simp] theorem State.setSp_keypad (b : Byte) : (s.setSp b).keypad = s.keypad := rfl
@[simp] theorem State.setSp_keypadPrev (b : Byte) : (s.setSp b).keypadPrev = s.keypadPrev := rfl
@[simp] theorem State.setSp_fb (b : Byte) : (s.setSp b).fb = s.fb := rfl
@[simp] theorem State.setSp_accT (b : Byte) : (s.setSp b).accT = s.accT := rfl
@[simp] theorem State.setSp_accC (b : Byte) : (s.setSp b).accC = s.accC := rfl
@[simp] theorem State.setSp_viol (b : Byte) : (s.setSp b).viol = s.viol := rfl
@[simp] theorem State.setSp_draws (b : Byte) : (s.setSp b).draws = s.draws := rfl
@[simp] theorem State.setSp_cfg (b : Byte) : (s.setSp b).cfg = s.cfg := rfl
@[simp] theorem State.setSp_reg (b : Byte) (y : Nibble) : (s.setSp b).reg y = s.reg y := rfl
@[simp] theorem State.setSp_byteAt (b : Byte) (a : Nat) : (s.setSp b).byteAt a = s.byteAt a := rfl

/-! ### setStack -/

@[simp] theorem State.setStack_mem (b : Vector Word 16) : (s.setStack b).mem = s.mem := rfl
@[simp] theorem State.setStack_v (b : Vector Word 16) : (s.setStack b).v = s.v := rfl
@[simp] theorem State.setStack_i (b : Vector Word 16) : (s.setStack b).i = s.i := rfl
@[simp] theorem State.setStack_pc (b : Vector Word 16) : (s.setStack b).pc = s.pc := rfl
@[simp] theorem State.setStack_stack (b : Vector Word 16) : (s.setStack b).stack = b := rfl
@[simp] theorem State.setStack_sp (b : Vector Word 16) : (s.setStack b).sp = s.sp := rfl
@[simp] theorem State.setStack_dt (b : Vector Word 16) : (s.setStack b).dt = s.dt := rfl
@[simp] theorem State.setStack_st (b : Vector Word 16) : (s.setStack b).st = s.st := rfl
@[simp] theorem State.setStack_keypad (b : Vector Word 16) : (s.setStack b).keypad = s.keypad := rfl
@[simp] theorem State.setStack_keypadPrev (b : Vector Word 16) : (s.setStack b).keypadPrev = s.keypadPrev := rfl
@[simp] theorem State.setStack_fb (b : Vector Word 16) : (s.setStack b).fb = s.fb := rfl
@[simp] theorem State.setStack_accT (b : Vector Word 16) : (s.setStack b).accT = s.accT := rfl
@[simp] theorem State.setStack_accC (b : Vector Word 16) : (s.setStack b).accC = s.accC := rfl
@[simp] theorem State.setStack_viol (b : Vector Word 16) : (s.setStack b).viol = s.viol := rfl
@[simp] theorem State.setStack_draws (b : Vector Word 16) : (s.setStack b).draws = s.draws := rfl
@[simp] theorem State.setStack_cfg (b : Vector Word 16) : (s.setStack b).cfg = s.cfg := rfl
@[simp] theorem State.setStack_reg (b : Vector Word 16) (y : Nibble) : (s.setStack b).reg y = s.reg y := rfl
@[simp] theorem State.setStack_byteAt (b : Vector Word 16) (a : Nat) : (s.setStack b).byteAt a = s.byteAt a := rfl

/-! ### setDt -/

@[simp] theorem State.setDt_mem (b : Byte) : (s.setDt b).mem = s.mem := rfl
@[simp] theorem State.setDt_v (b : Byte) : (s.setDt b).v = s.v := rfl
@[simp] theorem State.setDt_i (b : Byte) : (s.setDt b).i = s.i := rfl
@[simp] theorem State.setDt_pc (b : Byte) : (s.setDt b).pc = s.pc := rfl
@[simp] theorem State.setDt_stack (b : Byte) : (s.setDt b).stack = s.stack := rfl
@[simp] theorem State.setDt_sp (b : Byte) : (s.setDt b).sp = s.sp := rfl
@[simp] theorem State.setDt_dt (b : Byte) : (s.setDt b).dt = b := rfl
@[simp] theorem State.setDt_st (b : Byte) : (s.setDt b).st = s.st := rfl
@[simp] theorem State.setDt_keypad (b : Byte) : (s.setDt b).keypad = s.keypad := rfl
@[simp] theorem State.setDt_keypadPrev (b : Byte) : (s.setDt b).keypadPrev = s.keypadPrev := rfl
@[simp] theorem State.setDt_fb (b : Byte) : (s.setDt b).fb = s.fb := rfl
@[simp] theorem State.setDt_accT (b : Byte) : (s.setDt b).accT = s.accT := rfl
@[simp] theorem State.setDt_accC (b : Byte) : (s.setDt b).accC = s.accC := rfl
@[simp] theorem State.setDt_viol (b : Byte) : (s.setDt b).viol = s.viol := rfl
@[simp] theorem State.setDt_draws (b : Byte) : (s.setDt b).draws = s.draws := rfl
@[simp] theorem State.setDt_cfg (b : Byte) : (s.setDt b).cfg = s.cfg := rfl
@[simp] theorem State.setDt_reg (b : Byte) (y : Nibble) : (s.setDt b).reg y = s.reg y := rfl
@[simp] theorem State.setDt_byteAt (b : Byte) (a : Nat) : (s.setDt b).byteAt a = s.byteAt a := rfl

/-! ### setSt -/

@[simp] theorem State.setSt_mem (b : Byte) : (s.setSt b).mem = s.mem := rfl
@[simp] theorem State.setSt_v (b : Byte) : (s.setSt b).v = s.v := rfl
@[simp] theorem State.setSt_i (b : Byte) : (s.setSt b).i = s.i := rfl
@[simp] theorem State.setSt_pc (b : Byte) : (s.setSt b).pc = s.pc := rfl
@[simp] theorem State.setSt_stack (b : Byte) : (s.setSt b).stack = s.stack := rfl
@[simp] theorem State.setSt_sp (b : Byte) : (s.setSt b).sp = s.sp := rfl
@[simp] theorem State.setSt_dt (b : Byte) : (s.setSt b).dt = s.dt := rfl
@[simp] theorem State.setSt_st (b : Byte) : (s.setSt b).st = b := rfl
@[simp] theorem State.setSt_keypad (b : Byte) : (s.setSt b).keypad = s.keypad := rfl
@[simp] theorem State.setSt_keypadPrev (b : Byte) : (s.setSt b).keypadPrev = s.keypadPrev := rfl
@[simp] theorem State.setSt_fb (b : Byte) : (s.setSt b).fb = s.fb := rfl
@[simp] theorem State.setSt_accT (b : Byte) : (s.setSt b).accT = s.accT := rfl
@[simp] theorem State.setSt_accC (b : Byte) : (s.setSt b).accC = s.accC := rfl
@[simp] theorem State.setSt_viol (b : Byte) : (s.setSt b).viol = s.viol := rfl
@[simp] theorem State.setSt_draws (b : Byte) : (s.setSt b).draws = s.draws := rfl
@[simp] theorem State.setSt_cfg (b : Byte) : (s.setSt b).cfg = s.cfg := rfl
@[simp] theorem State.setSt_reg (b : Byte) (y : Nibble) : (s.setSt b).reg y = s.reg y := rfl
@[simp] theorem State.setSt_byteAt (b : Byte) (a : Nat) : (s.setSt b).byteAt a = s.byteAt a := rfl

/-! ### setFb -/

@[simp] theorem State.setFb_mem (b : Framebuffer) : (s.setFb b).mem = s.mem := rfl
@[simp] theorem State.setFb_v (b : Framebuffer) : (s.setFb b).v = s.v := rfl
@[simp] theorem State.setFb_i (b : Framebuffer) : (s.setFb b).i = s.i := rfl
@[simp] theorem State.setFb_pc (b : Framebuffer) : (s.setFb b).pc = s.pc := rfl
@[simp] theorem State.setFb_stack (b : Framebuffer) : (s.setFb b).stack = s.stack := rfl
@[simp] theorem State.setFb_sp (b : Framebuffer) : (s.setFb b).sp = s.sp := rfl
@[simp] theorem State.setFb_dt (b : Framebuffer) : (s.setFb b).dt = s.dt := rfl
@[simp] theorem State.setFb_st (b : Framebuffer) : (s.setFb b).st = s.st := rfl
@[simp] theorem State.setFb_keypad (b : Framebuffer) : (s.setFb b).keypad = s.keypad := rfl
@[simp] theorem State.setFb_keypadPrev (b : Framebuffer) : (s.setFb b).keypadPrev = s.keypadPrev := rfl
@[simp] theorem State.setFb_fb (b : Framebuffer) : (s.setFb b).fb = b := rfl
@[simp] theorem State.setFb_accT (b : Framebuffer) : (s.setFb b).accT = s.accT := rfl
@[simp] theorem State.setFb_accC (b : Framebuffer) : (s.setFb b).accC = s.accC := rfl
@[simp] theorem State.setFb_viol (b : Framebuffer) : (s.setFb b).viol = s.viol := rfl
@[simp] theorem State.setFb_draws (b : Framebuffer) : (s.setFb b).draws = s.draws := rfl
@[simp] theorem State.setFb_cfg (b : Framebuffer) : (s.setFb b).cfg = s.cfg := rfl
@[simp] theorem State.setFb_reg (b : Framebuffer) (y : Nibble) : (s.setFb b).reg y = s.reg y := rfl
@[simp] theorem State.setFb_byteAt (b : Framebuffer) (a : Nat) : (s.setFb b).byteAt a = s.byteAt a := rfl

/-! ### setMem -/

@[simp] theorem State.setMem_mem (b : List Host.Cell) : (s.setMem b).mem = b := rfl
@[simp] theorem State.setMem_v (b : List Host.Cell) : (s.setMem b).v = s.v := rfl
@[simp] theorem State.setMem_i (b : List Host.Cell) : (s.setMem b).i = s.i := rfl
@[simp] theorem State.setMem_pc (b : List Host.Cell) : (s.setMem b).pc = s.pc := rfl
@[simp] theorem State.setMem_stack (b : List Host.Cell) : (s.setMem b).stack = s.stack := rfl
@[simp] theorem State.setMem_sp (b : List Host.Cell) : (s.setMem b).sp = s.sp := rfl
@[simp] theorem State.setMem_dt (b : List Host.Cell) : (s.setMem b).dt = s.dt := rfl
@[simp] theorem State.setMem_st (b : List Host.Cell) : (s.setMem b).st = s.st := rfl
@[simp] theorem State.setMem_keypad (b : List Host.Cell) : (s.setMem b).keypad = s.keypad := rfl
@[simp] theorem State.setMem_keypadPrev (b : List Host.Cell) : (s.setMem b).keypadPrev = s.keypadPrev := rfl
@[simp] theorem State.setMem_fb (b : List Host.Cell) : (s.setMem b).fb = s.fb := rfl
@[simp] theorem State.setMem_accT (b : List Host.Cell) : (s.setMem b).accT = s.accT := rfl
@[simp] theorem State.setMem_accC (b : List Host.Cell) : (s.setMem b).accC = s.accC := rfl
@[simp] theorem State.setMem_viol (b : List Host.Cell) : (s.setMem b).viol = s.viol := rfl
@[simp] theorem State.setMem_draws (b : List Host.Cell) : (s.setMem b).draws = s.draws := rfl
@[simp] theorem State.setMem_cfg (b : List Host.Cell) : (s.setMem b).cfg = s.cfg := rfl
@[simp] theorem State.setMem_reg (b : List Host.Cell) (y : Nibble) : (s.setMem b).reg y = s.reg y := rfl

/-! ### setViol -/

@[simp] theorem State.setViol_mem (b : Byte) : (s.setViol b).mem = s.mem := rfl
@[simp] theorem State.setViol_v (b : Byte) : (s.setViol b).v = s.v := rfl
@[simp] theorem State.setViol_i (b : Byte) : (s.setViol b).i = s.i := rfl
@[simp] theorem State.setViol_pc (b : Byte) : (s.setViol b).pc = s.pc := rfl
@[simp] theorem State.setViol_stack (b : Byte) : (s.setViol b).stack = s.stack := rfl
@[simp] theorem State.setViol_sp (b : Byte) : (s.setViol b).sp = s.sp := rfl
@[simp] theorem State.setViol_dt (b : Byte) : (s.setViol b).dt = s.dt := rfl
@[simp] theorem State.setViol_st (b : Byte) : (s.setViol b).st = s.st := rfl
@[simp] theorem State.setViol_keypad (b : Byte) : (s.setViol b).keypad = s.keypad := rfl
@[simp] theorem State.setViol_keypadPrev (b : Byte) : (s.setViol b).keypadPrev = s.keypadPrev := rfl
@[simp] theorem State.setViol_fb (b : Byte) : (s.setViol b).fb = s.fb := rfl
@[simp] theorem State.setViol_accT (b : Byte) : (s.setViol b).accT = s.accT := rfl
@[simp] theorem State.setViol_accC (b : Byte) : (s.setViol b).accC = s.accC := rfl
@[simp] theorem State.setViol_viol (b : Byte) : (s.setViol b).viol = b := rfl
@[simp] theorem State.setViol_draws (b : Byte) : (s.setViol b).draws = s.draws := rfl
@[simp] theorem State.setViol_cfg (b : Byte) : (s.setViol b).cfg = s.cfg := rfl
@[simp] theorem State.setViol_reg (b : Byte) (y : Nibble) : (s.setViol b).reg y = s.reg y := rfl
@[simp] theorem State.setViol_byteAt (b : Byte) (a : Nat) : (s.setViol b).byteAt a = s.byteAt a := rfl

/-! ### setDraws -/

@[simp] theorem State.setDraws_mem (b : Nat) : (s.setDraws b).mem = s.mem := rfl
@[simp] theorem State.setDraws_v (b : Nat) : (s.setDraws b).v = s.v := rfl
@[simp] theorem State.setDraws_i (b : Nat) : (s.setDraws b).i = s.i := rfl
@[simp] theorem State.setDraws_pc (b : Nat) : (s.setDraws b).pc = s.pc := rfl
@[simp] theorem State.setDraws_stack (b : Nat) : (s.setDraws b).stack = s.stack := rfl
@[simp] theorem State.setDraws_sp (b : Nat) : (s.setDraws b).sp = s.sp := rfl
@[simp] theorem State.setDraws_dt (b : Nat) : (s.setDraws b).dt = s.dt := rfl
@[simp] theorem State.setDraws_st (b : Nat) : (s.setDraws b).st = s.st := rfl
@[simp] theorem State.setDraws_keypad (b : Nat) : (s.setDraws b).keypad = s.keypad := rfl
@[simp] theorem State.setDraws_keypadPrev (b : Nat) : (s.setDraws b).keypadPrev = s.keypadPrev := rfl
@[simp] theorem State.setDraws_fb (b : Nat) : (s.setDraws b).fb = s.fb := rfl
@[simp] theorem State.setDraws_accT (b : Nat) : (s.setDraws b).accT = s.accT := rfl
@[simp] theorem State.setDraws_accC (b : Nat) : (s.setDraws b).accC = s.accC := rfl
@[simp] theorem State.setDraws_viol (b : Nat) : (s.setDraws b).viol = s.viol := rfl
@[simp] theorem State.setDraws_draws (b : Nat) : (s.setDraws b).draws = b := rfl
@[simp] theorem State.setDraws_cfg (b : Nat) : (s.setDraws b).cfg = s.cfg := rfl
@[simp] theorem State.setDraws_reg (b : Nat) (y : Nibble) : (s.setDraws b).reg y = s.reg y := rfl
@[simp] theorem State.setDraws_byteAt (b : Nat) (a : Nat) : (s.setDraws b).byteAt a = s.byteAt a := rfl

/-! ### setAccT -/

@[simp] theorem State.setAccT_mem (b : Nat) : (s.setAccT b).mem = s.mem := rfl
@[simp] theorem State.setAccT_v (b : Nat) : (s.setAccT b).v = s.v := rfl
@[simp] theorem State.setAccT_i (b : Nat) : (s.setAccT b).i = s.i := rfl
@[simp] theorem State.setAccT_pc (b : Nat) : (s.setAccT b).pc = s.pc := rfl
@[simp] theorem State.setAccT_stack (b : Nat) : (s.setAccT b).stack = s.stack := rfl
@[simp] theorem State.setAccT_sp (b : Nat) : (s.setAccT b).sp = s.sp := rfl
@[simp] theorem State.setAccT_dt (b : Nat) : (s.setAccT b).dt = s.dt := rfl
@[simp] theorem State.setAccT_st (b : Nat) : (s.setAccT b).st = s.st := rfl
@[simp] theorem State.setAccT_keypad (b : Nat) : (s.setAccT b).keypad = s.keypad := rfl
@[simp] theorem State.setAccT_keypadPrev (b : Nat) : (s.setAccT b).keypadPrev = s.keypadPrev := rfl
@[simp] theorem State.setAccT_fb (b : Nat) : (s.setAccT b).fb = s.fb := rfl
@[simp] theorem State.setAccT_accT (b : Nat) : (s.setAccT b).accT = b := rfl
@[simp] theorem State.setAccT_accC (b : Nat) : (s.setAccT b).accC = s.accC := rfl
@[simp] theorem State.setAccT_viol (b : Nat) : (s.setAccT b).viol = s.viol := rfl
@[simp] theorem State.setAccT_draws (b : Nat) : (s.setAccT b).draws = s.draws := rfl
@[simp] theorem State.setAccT_cfg (b : Nat) : (s.setAccT b).cfg = s.cfg := rfl
@[simp] theorem State.setAccT_reg (b : Nat) (y : Nibble) : (s.setAccT b).reg y = s.reg y := rfl
@[simp] theorem State.setAccT_byteAt (b : Nat) (a : Nat) : (s.setAccT b).byteAt a = s.byteAt a := rfl

/-! ### setAccC -/

@[simp] theorem State.setAccC_mem (b : Nat) : (s.setAccC b).mem = s.mem := rfl
@[simp] theorem State.setAccC_v (b : Nat) : (s.setAccC b).v = s.v := rfl
@[simp] theorem State.setAccC_i (b : Nat) : (s.setAccC b).i = s.i := rfl
@[simp] theorem State.setAccC_pc (b : Nat) : (s.setAccC b).pc = s.pc := rfl
@[simp] theorem State.setAccC_stack (b : Nat) : (s.setAccC b).stack = s.stack := rfl
@[simp] theorem State.setAccC_sp (b : Nat) : (s.setAccC b).sp = s.sp := rfl
@[simp] theorem State.setAccC_dt (b : Nat) : (s.setAccC b).dt = s.dt := rfl
@[simp] theorem State.setAccC_st (b : Nat) : (s.setAccC b).st = s.st := rfl
@[simp] theorem State.setAccC_keypad (b : Nat) : (s.setAccC b).keypad = s.keypad := rfl
@[simp] theorem State.setAccC_keypadPrev (b : Nat) : (s.setAccC b).keypadPrev = s.keypadPrev := rfl
@[simp] theorem State.setAccC_fb (b : Nat) : (s.setAccC b).fb = s.fb := rfl
@[simp] theorem State.setAccC_accT (b : Nat) : (s.setAccC b).accT = s.accT := rfl
@[simp] theorem State.setAccC_accC (b : Nat) : (s.setAccC b).accC = b := rfl
@[simp] theorem State.setAccC_viol (b : Nat) : (s.setAccC b).viol = s.viol := rfl
@[simp] theorem State.setAccC_draws (b : Nat) : (s.setAccC b).draws = s.draws := rfl
@[simp] theorem State.setAccC_cfg (b : Nat) : (s.setAccC b).cfg = s.cfg := rfl
@[simp] theorem State.setAccC_reg (b : Nat) (y : Nibble) : (s.setAccC b).reg y = s.reg y := rfl
@[simp] theorem State.setAccC_byteAt (b : Nat) (a : Nat) : (s.setAccC b).byteAt a = s.byteAt a := rfl

/-! ### snapshot -/

@[simp] theorem State.snapshot_mem : (s.snapshot).mem = s.mem := rfl
@[simp] theorem State.snapshot_v : (s.snapshot).v = s.v := rfl
@[simp] theorem State.snapshot_i : (s.snapshot).i = s.i := rfl
@[simp] theorem State.snapshot_pc : (s.snapshot).pc = s.pc := rfl
@[simp] theorem State.snapshot_stack : (s.snapshot).stack = s.stack := rfl
@[simp] theorem State.snapshot_sp : (s.snapshot).sp = s.sp := rfl
@[simp] theorem State.snapshot_dt : (s.snapshot).dt = s.dt := rfl
@[simp] theorem State.snapshot_st : (s.snapshot).st = s.st := rfl
@[simp] theorem State.snapshot_keypad : (s.snapshot).keypad = s.keypad := rfl
@[simp] theorem State.snapshot_keypadPrev : (s.snapshot).keypadPrev = s.keypad := rfl
@[simp] theorem State.snapshot_fb : (s.snapshot).fb = s.fb := rfl
@[simp] theorem State.snapshot_accT : (s.snapshot).accT = s.accT := rfl
@[simp] theorem State.snapshot_accC : (s.snapshot).accC = s.accC := rfl
@[simp] theorem State.snapshot_viol : (s.snapshot).viol = s.viol := rfl
@[simp] theorem State.snapshot_draws : (s.snapshot).draws = s.draws := rfl
@[simp] theorem State.snapshot_cfg : (s.snapshot).cfg = s.cfg := rfl
@[simp] theorem State.snapshot_reg (y : Nibble) : (s.snapshot).reg y = s.reg y := rfl
@[simp] theorem State.snapshot_byteAt (a : Nat) : (s.snapshot).byteAt a = s.byteAt a := rfl

/-! ### keypadWrite -/

@[simp] theorem keypadWrite_mem (k : Word) : (keypadWrite k s).mem = s.mem := rfl
@[simp] theorem keypadWrite_v (k : Word) : (keypadWrite k s).v = s.v := rfl
@[simp] theorem keypadWrite_i (k : Word) : (keypadWrite k s).i = s.i := rfl
@[simp] theorem keypadWrite_pc (k : Word) : (keypadWrite k s).pc = s.pc := rfl
@[simp] theorem keypadWrite_stack (k : Word) : (keypadWrite k s).stack = s.stack := rfl
@[simp] theorem keypadWrite_sp (k : Word) : (keypadWrite k s).sp = s.sp := rfl
@[simp] theorem keypadWrite_dt (k : Word) : (keypadWrite k s).dt = s.dt := rfl
@[simp] theorem keypadWrite_st (k : Word) : (keypadWrite k s).st = s.st := rfl
@[simp] theorem keypadWrite_keypad (k : Word) : (keypadWrite k s).keypad = k := rfl
@[simp] theorem keypadWrite_keypadPrev (k : Word) : (keypadWrite k s).keypadPrev = s.keypadPrev := rfl
@[simp] theorem keypadWrite_fb (k : Word) : (keypadWrite k s).fb = s.fb := rfl
@[simp] theorem keypadWrite_accT (k : Word) : (keypadWrite k s).accT = s.accT := rfl
@[simp] theorem keypadWrite_accC (k : Word) : (keypadWrite k s).accC = s.accC := rfl
@[simp] theorem keypadWrite_viol (k : Word) : (keypadWrite k s).viol = s.viol := rfl
@[simp] theorem keypadWrite_draws (k : Word) : (keypadWrite k s).draws = s.draws := rfl
@[simp] theorem keypadWrite_cfg (k : Word) : (keypadWrite k s).cfg = s.cfg := rfl
@[simp] theorem keypadWrite_reg (k : Word) (y : Nibble) : (keypadWrite k s).reg y = s.reg y := rfl
@[simp] theorem keypadWrite_byteAt (k : Word) (a : Nat) : (keypadWrite k s).byteAt a = s.byteAt a := rfl

/-! ### Registers -/

@[simp] theorem State.setReg_reg_same (x : Nibble) (b : Byte) : (s.setReg x b).reg x = b := by
  simp [State.reg, State.setReg]

theorem State.setReg_reg (x : Nibble) (b : Byte) (y : Nibble) :
    (s.setReg x b).reg y = if y = x then b else s.reg y := by
  by_cases h : y = x
  · subst h; simp
  · have h' : x.toNat ≠ y.toNat := fun e => h (BitVec.eq_of_toNat_eq e.symm)
    simp [State.reg, State.setReg, h, h']

@[simp] theorem State.setReg_reg_other (x : Nibble) (b : Byte) (y : Nibble) (h : y ≠ x) :
    (s.setReg x b).reg y = s.reg y := by
  rw [State.setReg_reg, if_neg h]

@[simp] theorem State.resetWith_reg (c : Config) (x : Nibble) : (State.resetWith c).reg x = 0#8 := by
  simp [State.reg, State.resetWith]

end Sys2Proof.Machine
end

