-- ==== Sys2Proof/Laws/Ops.lean ====
section
/-! SUPPORT. For each shared operation, one lemma that says everything it can do, as a chain of setters. -/

namespace Sys2Proof.Machine

variable (s : State)

/-! ### Violations -/

theorem State.setViol_self : s.setViol s.viol = s := rfl

/-- `Flag` under a condition changes `VIOL` and nothing else. -/
theorem State.flagIf_eq (c : Bool) (f : Violation) :
    s.flagIf c f = s.setViol (if c then s.viol ||| (1#8 <<< f.bit) else s.viol) := by
  cases c <;> rfl

theorem Violation.bit_lt (f : Violation) : f.bit < 6 := by cases f <;> decide

/-- The mask of a cause has that one bit. -/
theorem Violation.mask_bit (f : Violation) (j : Nat) : (1#8 <<< f.bit).getLsbD j = decide (j = f.bit) := by
  by_cases h : j < 8
  · cases f <;> interval_cases j <;> rfl
  · have := f.bit_lt
    rw [BitVec.getLsbD_of_ge _ _ (by omega)]
    exact (decide_eq_false (by omega)).symm

/-- Bit `j` of `VIOL` after a conditional `Flag`: set before, or set now by its cause. -/
theorem viol_bit_flagIf (c : Bool) (f : Violation) (j : Nat) :
    (s.flagIf c f).viol.getLsbD j = (s.viol.getLsbD j || (c && decide (j = f.bit))) := by
  cases c
  · simp [State.flagIf]
  · simp only [State.flagIf, State.flag, if_true, State.setViol_viol, BitVec.getLsbD_or, Violation.mask_bit, Bool.true_and]

/-- A `Flag` leaves `VIOL[7:6]` as it was. -/
theorem viol_reserved_flagIf (c : Bool) (f : Violation) :
    (s.flagIf c f).viol.extractLsb' 6 2 = s.viol.extractLsb' 6 2 := by
  apply BitVec.eq_of_getLsbD_eq
  intro i hi
  have hf : ¬ (6 + i = f.bit) := by have := f.bit_lt; omega
  simp [viol_bit_flagIf, hf]

/-! ### Memory -/

/-- A read flags `MEM_OOB` at 4096 or above and answers the byte at the address mod 4096 (R47). -/
theorem State.memRead_eq (a : Nat) :
    s.memRead a = (s.byteAt (a % 4096), s.setViol (if 4096 ≤ a then s.viol ||| 4#8 else s.viol)) := by
  simp only [State.memRead, State.flagIf_eq, decide_eq_true_eq]; rfl

/-- A write flags `MEM_OOB` at 4096 or above and writes at the address mod 4096 (R48). -/
theorem State.memWrite_eq (a : Nat) (b : Byte) :
    s.memWrite a b = (s.setViol (if 4096 ≤ a then s.viol ||| 4#8 else s.viol)).setMem
      (Memory.write s.cfg.font s.mem (a % 4096) b) := by
  simp only [State.memWrite, State.flagIf_eq, decide_eq_true_eq]; rfl

/-- Every byte other than the one written reads as before. -/
theorem State.byteAt_memWrite_other (a : Nat) (b : Byte) {a' : Nat} (h : a' ≠ a % 4096) :
    (s.memWrite a b).byteAt a' = s.byteAt a' := by
  simpa [State.memWrite_eq, State.byteAt] using Memory.read_write_other h s.mem b

/-- The byte written is read back, in canonical memory. -/
theorem State.byteAt_memWrite_same (h : Memory.wf s.cfg.font s.mem = true) (a : Nat) (b : Byte) :
    (s.memWrite a b).byteAt (a % 4096) = b := by
  simpa [State.memWrite_eq, State.byteAt] using Memory.read_write_same h (a % 4096) b

theorem State.wf_memWrite (h : Memory.wf s.cfg.font s.mem = true) (a : Nat) (b : Byte) :
    Memory.wf (s.memWrite a b).cfg.font (s.memWrite a b).mem = true := by
  simpa [State.memWrite_eq] using Memory.wf_write h (Nat.mod_lt a (by omega)) b

/-- What `MEM_OOB` is after accesses at `I` .. `I + n - 1`. -/
def violAfter (n : Nat) : Byte := if 0 < n ∧ 4096 ≤ s.i.toNat + (n - 1) then s.viol ||| 4#8 else s.viol

theorem violAfter_zero : violAfter s 0 = s.viol := by simp [violAfter]

theorem violAfter_succ (n : Nat) :
    (if 4096 ≤ s.i.toNat + n then violAfter s n ||| 4#8 else violAfter s n) = violAfter s (n + 1) := by
  simp only [violAfter]
  split <;> split <;> split <;> first | rfl | omega | skip
  rw [BitVec.or_assoc, BitVec.or_self]

/-- Storing registers writes memory and `VIOL` only, keeps the canonical form, and leaves every byte outside the `n` stored
ones alone; the stored bytes are the registers (R134). -/
theorem State.storeRegs_spec (n : Nat) (hn : n ≤ 16) :
    ∃ m, s.storeRegs n = (s.setMem m).setViol (violAfter s n) ∧
      (∀ a, (∀ k, k < n → a ≠ (s.i.toNat + k) % 4096) → Memory.read s.cfg.font m a = s.byteAt a) ∧
      (Memory.wf s.cfg.font s.mem = true → Memory.wf s.cfg.font m = true ∧
        ∀ k, k < n → Memory.read s.cfg.font m ((s.i.toNat + k) % 4096) = s.reg (BitVec.ofNat 4 k)) := by
  induction n with
  | zero => exact ⟨s.mem, by rw [violAfter_zero]; rfl, fun _ _ => rfl, fun h => ⟨h, by omega⟩⟩
  | succ k ih =>
    obtain ⟨m, e, ho, hw⟩ := ih (by omega)
    refine ⟨Memory.write s.cfg.font m ((s.i.toNat + k) % 4096) (s.reg (BitVec.ofNat 4 k)), ?_, ?_, ?_⟩
    · simp only [State.storeRegs, State.effAddr, e, State.memWrite_eq, State.setViol_i, State.setMem_i, State.setViol_viol,
        State.setViol_cfg, State.setMem_cfg, State.setViol_mem, State.setMem_mem, State.setViol_reg, State.setMem_reg,
        violAfter_succ]
      rfl
    · intro a ha
      rw [Memory.read_write_other (ha k (by omega))]
      exact ho a fun j hj => ha j (by omega)
    · intro h
      obtain ⟨h1, h2⟩ := hw h
      refine ⟨Memory.wf_write h1 (Nat.mod_lt _ (by omega)) _, fun j hj => ?_⟩
      rcases Nat.lt_or_eq_of_le (Nat.lt_succ_iff.mp hj) with hlt | rfl
      · rw [Memory.read_write_other (by omega)]
        exact h2 j hlt
      · exact Memory.read_write_same h1 _ _

/-- Loading registers writes `V[0]` .. `V[n - 1]` and `VIOL` only (R135). -/
theorem State.loadRegs_spec (n : Nat) (hn : n ≤ 16) :
    ∃ vs, s.loadRegs n = { s with v := vs, viol := violAfter s n } ∧
      ∀ x : Nibble, vs[x.toNat]'x.isLt =
        if x.toNat < n then s.byteAt ((s.i.toNat + x.toNat) % 4096) else s.reg x := by
  induction n with
  | zero => exact ⟨s.v, by rw [violAfter_zero]; rfl, fun x => by simp [State.reg]⟩
  | succ k ih =>
    obtain ⟨vs, e, h⟩ := ih (by omega)
    have hk : (BitVec.ofNat 4 k).toNat = k := by simp; omega
    refine ⟨vs.set (BitVec.ofNat 4 k).toNat (s.byteAt ((s.i.toNat + k) % 4096)) (BitVec.ofNat 4 k).isLt, ?_, fun x => ?_⟩
    · have hb : State.byteAt { s with v := vs, viol := violAfter s k } ((s.i.toNat + k) % 4096) =
          s.byteAt ((s.i.toNat + k) % 4096) := rfl
      simp only [State.loadRegs, State.effAddr, e, State.memRead_eq, violAfter_succ, State.setReg, hb]
      rfl
    · rw [Vector.getElem_set]
      split
      · rename_i he
        rw [hk] at he
        rw [if_pos (by omega), ← he]
      · rename_i he
        rw [hk] at he
        rw [h x]
        by_cases hx : x.toNat < k
        · rw [if_pos hx, if_pos (by omega)]
        · rw [if_neg hx, if_neg (by omega)]

/-! ### Fetch and PC update -/

/-- The fetch changes `VIOL` and nothing else, and leaves `VIOL[7:6]` as it was (R68). -/
theorem State.fetchFlags_spec :
    ∃ b, s.fetchFlags = s.setViol b ∧ b.extractLsb' 6 2 = s.viol.extractLsb' 6 2 := by
  refine ⟨s.fetchFlags.viol, ?_, ?_⟩
  · simp only [State.fetchFlags, State.flagIf_eq]; rfl
  · simp only [State.fetchFlags, viol_reserved_flagIf]

/-- A PC update changes `PC` and nothing else (R86, R87). -/
theorem State.pcUpdate_eq (u : PcUpdate) :
    s.pcUpdate u = s.setPc (match u with | .adv => s.pc + 2#16 | .skip => s.pc + 4#16 | .hold => s.pc | .target t => t) := by
  cases u <;> rfl

/-- The test of a key changes `VIOL` at most, and answers bit `k` of `KEYPAD` or released (R107). -/
theorem State.keyPressed_eq (k : Byte) :
    s.keyPressed k = (decide (k.toNat ≤ 15) && s.keypad.getLsbD k.toNat,
      s.setViol (if k.toNat ≤ 15 then s.viol else s.viol ||| 32#8)) := by
  unfold State.keyPressed
  split
  · rename_i h; simp [h, State.setViol_self]
  · rename_i h; simp [h]; rfl

/-! ### The framebuffer -/

/-- A byte of the framebuffer after one is XORed. -/
theorem fbByte_fbXor (f : Framebuffer) (n : Nat) (b : Byte) (k : Nat) (hn : n < 256) :
    fbByte (fbXor f n b) k = if k = n then fbByte f n ^^^ b else fbByte f k := by
  unfold fbXor fbByte
  by_cases h : k = n
  · subst h; simp [hn]
  · simp [h, Ne.symm h]

/-- Drawing rows changes `FB` and `VIOL` only (R141). -/
theorem State.drawRows_spec (x0 y0 n : Nat) :
    ∃ f, (s.drawRows x0 y0 n).1 = (s.setFb f).setViol (violAfter s n) := by
  induction n with
  | zero => exact ⟨s.fb, by rw [violAfter_zero]; rfl⟩
  | succ r ih =>
    obtain ⟨f, e⟩ := ih
    have hb : ∀ a, ((s.setFb f).setViol (violAfter s r)).byteAt a = s.byteAt a := fun _ => rfl
    simp only [State.drawRows, e, State.effAddr, State.memRead_eq, State.setViol_viol, State.setViol_i, State.setFb_i,
      violAfter_succ, hb]
    exact ⟨_, rfl⟩

end Sys2Proof.Machine
end

