-- ==== Sys2Proof/Laws/Exec.lean ====
section
/-! SUPPORT. What `exec` answers for each instruction, as a chain of setters: the one place a proof unfolds a meaning. -/

namespace Sys2Proof.Machine

variable (s : State) (x y n : Nibble) (nn : Byte) (nnn : Addr12)

theorem exec_cls : exec .cls s = .next ((s.setFb (Vector.replicate 256 0#8)).setPc (s.pc + 2#16)) := rfl

theorem exec_sys : exec (.sys nnn) s = .next (s.setPc (s.pc + 2#16)) := rfl

theorem exec_jp : exec (.jp nnn) s = .next (s.setPc (zextAddr nnn)) := rfl

theorem exec_jpV0 : exec (.jpV0 nnn) s = .next (s.setPc (zextAddr nnn + zextByte (s.reg 0#4))) := rfl

theorem exec_call_push (h : s.sp.toNat < 16) :
    exec (.call nnn) s = .next (((s.setStack (s.stack.set s.sp.toNat s.pc h)).setSp (s.sp + 1#8)).setPc (zextAddr nnn)) := by
  change execCall nnn s = _
  have h16 : s.sp ≠ 16#8 := by intro e; rw [e] at h; simp at h
  simp only [execCall, if_neg h16, dif_pos h]; rfl

theorem exec_call_overflow (h : s.sp = 16#8) :
    exec (.call nnn) s = .next ((s.setViol (s.viol ||| 1#8)).setPc (s.pc + 2#16)) := by
  change execCall nnn s = _
  simp only [execCall, if_pos h]; rfl

theorem exec_ret_pop (h0 : s.sp ≠ 0#8) (h : s.sp.toNat - 1 < 16) :
    exec .ret s = .next ((s.setSp (s.sp - 1#8)).setPc ((s.stack[s.sp.toNat - 1]'h) + 2#16)) := by
  change execRet s = _
  simp only [execRet, if_neg h0, dif_pos h]; rfl

theorem exec_ret_underflow (h : s.sp = 0#8) :
    exec .ret s = .next ((s.setViol (s.viol ||| 2#8)).setPc (s.pc + 2#16)) := by
  change execRet s = _
  simp only [execRet, if_pos h]; rfl

theorem exec_seImm : exec (.seImm x nn) s = .next (s.setPc (s.pc + if s.reg x = nn then 4#16 else 2#16)) := by
  change execSeImm x nn s = _
  by_cases h : s.reg x = nn <;> simp [execSeImm, State.finish, skipIf, State.pcUpdate_eq, h]

theorem exec_sneImm : exec (.sneImm x nn) s = .next (s.setPc (s.pc + if s.reg x = nn then 2#16 else 4#16)) := by
  change execSneImm x nn s = _
  by_cases h : s.reg x = nn <;> simp [execSneImm, State.finish, skipIf, State.pcUpdate_eq, h]

theorem exec_seReg : exec (.seReg x y) s = .next (s.setPc (s.pc + if s.reg x = s.reg y then 4#16 else 2#16)) := by
  change execSeReg x y s = _
  by_cases h : s.reg x = s.reg y <;> simp [execSeReg, State.finish, skipIf, State.pcUpdate_eq, h]

theorem exec_sneReg : exec (.sneReg x y) s = .next (s.setPc (s.pc + if s.reg x = s.reg y then 2#16 else 4#16)) := by
  change execSneReg x y s = _
  by_cases h : s.reg x = s.reg y <;> simp [execSneReg, State.finish, skipIf, State.pcUpdate_eq, h]

theorem exec_skp : exec (.skp x) s = .next ((s.keyPressed (s.reg x)).2.setPc
    (s.pc + if (s.keyPressed (s.reg x)).1 then 4#16 else 2#16)) := by
  change execSkp x s = _
  cases h : (s.keyPressed (s.reg x)).1 <;>
    simp [execSkp, State.finish, skipIf, State.pcUpdate_eq, h] <;> simp [State.keyPressed_eq]

theorem exec_sknp : exec (.sknp x) s = .next ((s.keyPressed (s.reg x)).2.setPc
    (s.pc + if (s.keyPressed (s.reg x)).1 then 2#16 else 4#16)) := by
  change execSknp x s = _
  cases h : (s.keyPressed (s.reg x)).1 <;>
    simp [execSknp, State.finish, skipIf, State.pcUpdate_eq, h] <;> simp [State.keyPressed_eq]

theorem exec_ldImm : exec (.ldImm x nn) s = .next ((s.setReg x nn).setPc (s.pc + 2#16)) := rfl

theorem exec_addImm : exec (.addImm x nn) s = .next ((s.setReg x (s.reg x + nn)).setPc (s.pc + 2#16)) := rfl

theorem exec_ldReg : exec (.ldReg x y) s = .next ((s.setReg x (s.reg y)).setPc (s.pc + 2#16)) := rfl

theorem exec_orReg : exec (.orReg x y) s = .next ((s.setReg x (s.reg x ||| s.reg y)).setPc (s.pc + 2#16)) := rfl

theorem exec_andReg : exec (.andReg x y) s = .next ((s.setReg x (s.reg x &&& s.reg y)).setPc (s.pc + 2#16)) := rfl

theorem exec_xorReg : exec (.xorReg x y) s = .next ((s.setReg x (s.reg x ^^^ s.reg y)).setPc (s.pc + 2#16)) := rfl

theorem exec_addReg : exec (.addReg x y) s = .next
    (((s.setReg x (s.reg x + s.reg y)).setReg vf (carryFlag (s.reg x) (s.reg y))).setPc (s.pc + 2#16)) := rfl

theorem exec_subReg (s1 : State) (h : s1 = s.setReg vf (noBorrowFlag (s.reg x) (s.reg y))) :
    exec (.subReg x y) s = .next ((s1.setReg x (s1.reg x - s1.reg y)).setPc (s.pc + 2#16)) := by subst h; rfl

theorem exec_subnReg (s1 : State) (h : s1 = s.setReg vf (noBorrowFlag (s.reg y) (s.reg x))) :
    exec (.subnReg x y) s = .next ((s1.setReg x (s1.reg y - s1.reg x)).setPc (s.pc + 2#16)) := by subst h; rfl

theorem exec_shr (s1 : State) (h : s1 = s.setReg vf (shiftOutLow (s.reg x))) :
    exec (.shr x y) s = .next ((s1.setReg x (s1.reg x >>> 1)).setPc (s.pc + 2#16)) := by subst h; rfl

theorem exec_shl (s1 : State) (h : s1 = s.setReg vf (shiftOutHigh (s.reg x))) :
    exec (.shl x y) s = .next ((s1.setReg x (s1.reg x <<< 1)).setPc (s.pc + 2#16)) := by subst h; rfl

theorem exec_rnd : exec (.rnd x nn) s = .next
    (((s.setDraws (s.draws + 1)).setReg x (Config.randomByte s.draws &&& nn)).setPc (s.pc + 2#16)) := rfl

theorem exec_ldI : exec (.ldI nnn) s = .next ((s.setI (zextAddr nnn)).setPc (s.pc + 2#16)) := rfl

theorem exec_addI : exec (.addI x) s = .next ((s.setI (s.i + zextByte (s.reg x))).setPc (s.pc + 2#16)) := rfl

theorem exec_ldF : exec (.ldF x) s = .next ((s.setI (glyphAddr (s.reg x))).setPc (s.pc + 2#16)) := rfl

theorem exec_ldB : exec (.ldB x) s = .next
    ((((s.memWrite (s.effAddr 0) (hundreds (s.reg x))).memWrite (s.effAddr 1) (tens (s.reg x))).memWrite (s.effAddr 2)
      (ones (s.reg x))).setPc (s.pc + 2#16)) := by
  change execLdB x s = _
  simp [execLdB, State.finish, State.pcUpdate_eq, State.effAddr, State.memWrite_eq]

theorem exec_ldMemVx : exec (.ldMemVx x) s = .next ((s.storeRegs (x.toNat + 1)).setPc (s.pc + 2#16)) := by
  change execLdMemVx x s = _
  obtain ⟨m, e, -⟩ := s.storeRegs_spec (x.toNat + 1) (by have := x.isLt; omega)
  simp [execLdMemVx, State.finish, State.pcUpdate_eq, e]

theorem exec_ldVxMem : exec (.ldVxMem x) s = .next ((s.loadRegs (x.toNat + 1)).setPc (s.pc + 2#16)) := by
  change execLdVxMem x s = _
  obtain ⟨vs, e, -⟩ := s.loadRegs_spec (x.toNat + 1) (by have := x.isLt; omega)
  simp [execLdVxMem, State.finish, State.pcUpdate_eq, e]

theorem exec_drw (p : State × Bool) (h : p = s.drawRows ((s.reg x).toNat % 64) ((s.reg y).toNat % 32) n.toNat) :
    exec (.drw x y n) s = .next ((p.1.setReg vf (flagByte p.2)).setPc (s.pc + 2#16)) := by
  change execDrw x y n s = _
  obtain ⟨f, e⟩ := s.drawRows_spec ((s.reg x).toNat % 64) ((s.reg y).toNat % 32) n.toNat
  subst h
  simp [execDrw, State.finish, State.pcUpdate_eq, e]

theorem exec_ldVxDt : exec (.ldVxDt x) s = .next ((s.setReg x s.dt).setPc (s.pc + 2#16)) := rfl

theorem exec_ldVxK_hold (h : s.keyChange = 0#16) : exec (.ldVxK x) s = .next s := by
  change execLdVxK x s = _
  simp only [execLdVxK, if_pos h]; rfl

theorem exec_ldVxK_key (h : s.keyChange ≠ 0#16) : exec (.ldVxK x) s = .next
    ((s.setReg x (BitVec.ofNat 8 (lowestBit s.keyChange))).setPc (s.pc + 2#16)) := by
  change execLdVxK x s = _
  simp only [execLdVxK, if_neg h]; rfl

theorem exec_ldDtVx : exec (.ldDtVx x) s = .next ((s.setDt (s.reg x)).setPc (s.pc + 2#16)) := rfl

theorem exec_ldStVx : exec (.ldStVx x) s = .next ((s.setSt (s.reg x)).setPc (s.pc + 2#16)) := rfl

/-- Everything a step can do: run the decoded instruction, or advance past an unrecognised word, on the fetch's state. -/
theorem step_cases {t : State} (h : step s = .next t) :
    (∃ i, decode s.fetchWord = .ok i ∧ exec i s.fetchFlags = .next t) ∨
    (∃ u, decode s.fetchWord = .error u ∧ t = s.fetchFlags.setPc (s.pc + 2#16)) := by
  unfold step at h
  split at h
  · rename_i i hd; exact .inl ⟨i, hd, h⟩
  · rename_i u hd
    obtain ⟨b, e, -⟩ := s.fetchFlags_spec
    refine .inr ⟨u, hd, ?_⟩
    rw [e] at h ⊢
    cases h
    rfl

/-- The lowest set bit of a nonzero word is set, below 16, and no lower bit is set (R151). -/
theorem lowestBitFrom_spec (w : Word) (n fuel : Nat) (h : ∃ k, n ≤ k ∧ k < n + fuel ∧ w.getLsbD k = true) :
    w.getLsbD (lowestBitFrom w n fuel) = true ∧ lowestBitFrom w n fuel < n + fuel ∧
      ∀ j, n ≤ j → j < lowestBitFrom w n fuel → w.getLsbD j = false := by
  induction fuel generalizing n with
  | zero => obtain ⟨k, h1, h2, -⟩ := h; omega
  | succ f ih =>
    unfold lowestBitFrom
    split
    · rename_i hb; exact ⟨hb, by omega, fun j h1 h2 => by omega⟩
    · rename_i hb
      obtain ⟨k, h1, h2, h3⟩ := h
      have hk : n ≠ k := by intro e; rw [e] at hb; exact hb h3
      obtain ⟨a, b, c⟩ := ih (n + 1) ⟨k, by omega, by omega, h3⟩
      refine ⟨a, by omega, fun j hj1 hj2 => ?_⟩
      rcases Nat.eq_or_lt_of_le hj1 with rfl | hlt
      · simpa using hb
      · exact c j hlt hj2

end Sys2Proof.Machine
end

