-- ==== Sys2Proof/Laws/Frame.lean ====
section
/-! SUPPORT. How frames compose: each setter keeps every other part, and what two steps keep, their sequence keeps. -/

namespace Sys2Proof.Machine

variable {ps qs : List Part} {s t u : State}

theorem KeepsExcept.refl (ps : List Part) (s : State) : KeepsExcept ps s s := by
  intro p _
  cases p <;> simp [Part.same]

theorem Part.same_trans {p : Part} (h : p.same s t) (h' : p.same t u) : p.same s u := by
  cases p
  case mem => exact fun a => (h' a).trans (h a)
  case regs => exact fun x => (h' x).trans (h x)
  all_goals exact Eq.trans h' h

theorem KeepsExcept.trans (h : KeepsExcept ps s t) (h' : KeepsExcept ps t u) : KeepsExcept ps s u :=
  fun p hp => Part.same_trans (h p hp) (h' p hp)

/-- A frame that names fewer parts is stronger. -/
theorem KeepsExcept.mono (h : KeepsExcept ps s t) (hsub : ∀ p, p ∈ ps → p ∈ qs) : KeepsExcept qs s t :=
  fun p hp => h p fun hm => hp (hsub p hm)

variable (s)

theorem keepsExcept_setReg (x : Nibble) (b : Byte) : KeepsExcept [.regs] s (s.setReg x b) := by
  intro p hp; cases p <;> simp_all [Part.same]

theorem keepsExcept_setI (a : Word) : KeepsExcept [.i] s (s.setI a) := by
  intro p hp; cases p <;> simp_all [Part.same]

theorem keepsExcept_setPc (a : Word) : KeepsExcept [.pc] s (s.setPc a) := by
  intro p hp; cases p <;> simp_all [Part.same]

theorem keepsExcept_setSp (n : Byte) : KeepsExcept [.sp] s (s.setSp n) := by
  intro p hp; cases p <;> simp_all [Part.same]

theorem keepsExcept_setStack (st : Vector Word 16) : KeepsExcept [.stack] s (s.setStack st) := by
  intro p hp; cases p <;> simp_all [Part.same]

theorem keepsExcept_setDt (b : Byte) : KeepsExcept [.dt] s (s.setDt b) := by
  intro p hp; cases p <;> simp_all [Part.same]

theorem keepsExcept_setSt (b : Byte) : KeepsExcept [.st] s (s.setSt b) := by
  intro p hp; cases p <;> simp_all [Part.same]

theorem keepsExcept_setFb (f : Framebuffer) : KeepsExcept [.fb] s (s.setFb f) := by
  intro p hp; cases p <;> simp_all [Part.same]

theorem keepsExcept_setMem (m : List Host.Cell) : KeepsExcept [.mem] s (s.setMem m) := by
  intro p hp; cases p <;> simp_all [Part.same]

theorem keepsExcept_setViol (b : Byte) : KeepsExcept [.viol] s (s.setViol b) := by
  intro p hp; cases p <;> simp_all [Part.same]

theorem keepsExcept_setDraws (n : Nat) : KeepsExcept [.draws] s (s.setDraws n) := by
  intro p hp; cases p <;> simp_all [Part.same]

theorem keepsExcept_pcUpdate (v : PcUpdate) : KeepsExcept [.pc] s (s.pcUpdate v) := by
  rw [State.pcUpdate_eq]; exact keepsExcept_setPc s _

/-- A write to memory changes memory and `VIOL` only (R48). -/
theorem keepsExcept_memWrite (a : Nat) (b : Byte) : KeepsExcept [.mem, .viol] s (s.memWrite a b) := by
  rw [State.memWrite_eq]
  exact ((keepsExcept_setViol s _).mono (by simp)).trans ((keepsExcept_setMem _ _).mono (by simp))

/-- Storing registers changes memory and `VIOL` only (R134). -/
theorem keepsExcept_storeRegs (n : Nat) (hn : n ≤ 16) : KeepsExcept [.mem, .viol] s (s.storeRegs n) := by
  obtain ⟨m, e, -⟩ := s.storeRegs_spec n hn
  rw [e]
  exact ((keepsExcept_setMem s _).mono (by simp)).trans ((keepsExcept_setViol _ _).mono (by simp))

/-- Loading registers changes the registers and `VIOL` only (R135). -/
theorem keepsExcept_loadRegs (n : Nat) (hn : n ≤ 16) : KeepsExcept [.regs, .viol] s (s.loadRegs n) := by
  obtain ⟨vs, e, -⟩ := s.loadRegs_spec n hn
  rw [e]
  intro p hp
  cases p <;> simp_all [Part.same]
  exact fun _ => rfl

/-- Drawing rows changes `FB` and `VIOL` only (R141). -/
theorem keepsExcept_drawRows (x0 y0 n : Nat) : KeepsExcept [.fb, .viol] s (s.drawRows x0 y0 n).1 := by
  obtain ⟨f, e⟩ := s.drawRows_spec x0 y0 n
  rw [e]
  exact ((keepsExcept_setFb s _).mono (by simp)).trans ((keepsExcept_setViol _ _).mono (by simp))

/-- The fetch changes `VIOL` only (R68). -/
theorem keepsExcept_fetchFlags : KeepsExcept [.viol] s s.fetchFlags := by
  obtain ⟨b, e, -⟩ := s.fetchFlags_spec
  rw [e]; exact keepsExcept_setViol s b

/-- The test of a key changes `VIOL` only (R107). -/
theorem keepsExcept_keyPressed (k : Byte) : KeepsExcept [.viol] s (s.keyPressed k).2 := by
  rw [State.keyPressed_eq]; exact keepsExcept_setViol s _

/-- A draw of a random byte changes the count of draws only (R123). -/
theorem keepsExcept_draw : KeepsExcept [.draws] s s.draw.2 := keepsExcept_setDraws s _

end Sys2Proof.Machine
end

