-- ==== Sys2Proof/Laws/PerInstr.lean ====
section
/-! SUPPORT. A statement about every instruction, one lemma per constructor: its encoding has the fixed digits of its row of
spec/opcode_table.json (30_encoding.md R70). -/

namespace Sys2Proof.Laws

/-- The row's mask: which bits of the pattern are fixed. -/
def tableMask (i : Instr) : Word :=
  match i with
  | .cls => 0xFFFF#16
  | .ret => 0xFFFF#16
  | .sys _ => 0xF000#16
  | .jp _ => 0xF000#16
  | .call _ => 0xF000#16
  | .seImm _ _ => 0xF000#16
  | .sneImm _ _ => 0xF000#16
  | .seReg _ _ => 0xF00F#16
  | .ldImm _ _ => 0xF000#16
  | .addImm _ _ => 0xF000#16
  | .ldReg _ _ => 0xF00F#16
  | .orReg _ _ => 0xF00F#16
  | .andReg _ _ => 0xF00F#16
  | .xorReg _ _ => 0xF00F#16
  | .addReg _ _ => 0xF00F#16
  | .subReg _ _ => 0xF00F#16
  | .shr _ _ => 0xF00F#16
  | .subnReg _ _ => 0xF00F#16
  | .shl _ _ => 0xF00F#16
  | .sneReg _ _ => 0xF00F#16
  | .ldI _ => 0xF000#16
  | .jpV0 _ => 0xF000#16
  | .rnd _ _ => 0xF000#16
  | .drw _ _ _ => 0xF000#16
  | .skp _ => 0xF0FF#16
  | .sknp _ => 0xF0FF#16
  | .ldVxDt _ => 0xF0FF#16
  | .ldVxK _ => 0xF0FF#16
  | .ldDtVx _ => 0xF0FF#16
  | .ldStVx _ => 0xF0FF#16
  | .addI _ => 0xF0FF#16
  | .ldF _ => 0xF0FF#16
  | .ldB _ => 0xF0FF#16
  | .ldMemVx _ => 0xF0FF#16
  | .ldVxMem _ => 0xF0FF#16

/-- The row's match: the values of the fixed bits. -/
def tableMatch (i : Instr) : Word :=
  match i with
  | .cls => 0x00E0#16
  | .ret => 0x00EE#16
  | .sys _ => 0x0000#16
  | .jp _ => 0x1000#16
  | .call _ => 0x2000#16
  | .seImm _ _ => 0x3000#16
  | .sneImm _ _ => 0x4000#16
  | .seReg _ _ => 0x5000#16
  | .ldImm _ _ => 0x6000#16
  | .addImm _ _ => 0x7000#16
  | .ldReg _ _ => 0x8000#16
  | .orReg _ _ => 0x8001#16
  | .andReg _ _ => 0x8002#16
  | .xorReg _ _ => 0x8003#16
  | .addReg _ _ => 0x8004#16
  | .subReg _ _ => 0x8005#16
  | .shr _ _ => 0x8006#16
  | .subnReg _ _ => 0x8007#16
  | .shl _ _ => 0x800E#16
  | .sneReg _ _ => 0x9000#16
  | .ldI _ => 0xA000#16
  | .jpV0 _ => 0xB000#16
  | .rnd _ _ => 0xC000#16
  | .drw _ _ _ => 0xD000#16
  | .skp _ => 0xE09E#16
  | .sknp _ => 0xE0A1#16
  | .ldVxDt _ => 0xF007#16
  | .ldVxK _ => 0xF00A#16
  | .ldDtVx _ => 0xF015#16
  | .ldStVx _ => 0xF018#16
  | .addI _ => 0xF01E#16
  | .ldF _ => 0xF029#16
  | .ldB _ => 0xF033#16
  | .ldMemVx _ => 0xF055#16
  | .ldVxMem _ => 0xF065#16

theorem packXYN_and_digits (o x y n : Nibble) : packXYN o x y n &&& 0xF00F#16 = packXYN o 0#4 0#4 n := by
  apply BitVec.eq_of_getLsbD_eq
  intro i hi
  simp only [packXYN, BitVec.getLsbD_and, BitVec.getLsbD_append]
  interval_cases i <;> simp

theorem packXYN_and_op (o x y n : Nibble) : packXYN o x y n &&& 0xF000#16 = packXYN o 0#4 0#4 0#4 := by
  apply BitVec.eq_of_getLsbD_eq
  intro i hi
  simp only [packXYN, BitVec.getLsbD_and, BitVec.getLsbD_append]
  interval_cases i <;> simp

theorem packXNN_and_op (o x : Nibble) (nn : Byte) : packXNN o x nn &&& 0xF000#16 = packXNN o 0#4 0#8 := by
  apply BitVec.eq_of_getLsbD_eq
  intro i hi
  simp only [packXNN, BitVec.getLsbD_and, BitVec.getLsbD_append]
  interval_cases i <;> simp

theorem packXNN_and_digits (o x : Nibble) (nn : Byte) : packXNN o x nn &&& 0xF0FF#16 = packXNN o 0#4 nn := by
  apply BitVec.eq_of_getLsbD_eq
  intro i hi
  simp only [packXNN, BitVec.getLsbD_and, BitVec.getLsbD_append]
  interval_cases i <;> simp

theorem packNNN_and_op (o : Nibble) (nnn : Addr12) : packNNN o nnn &&& 0xF000#16 = packNNN o 0#12 := by
  apply BitVec.eq_of_getLsbD_eq
  intro i hi
  simp only [packNNN, BitVec.getLsbD_and, BitVec.getLsbD_append]
  interval_cases i <;> simp

/-- The encoding of `i` has the fixed digits of its row. -/
def FixedDigits.Statement (i : Instr) : Prop := encode i &&& tableMask i = tableMatch i

theorem FixedDigits.cls : FixedDigits.Statement (.cls) := rfl
theorem FixedDigits.ret : FixedDigits.Statement (.ret) := rfl
theorem FixedDigits.sys (nnn : Addr12) : FixedDigits.Statement (.sys nnn) := (packNNN_and_op _ nnn).trans rfl
theorem FixedDigits.jp (nnn : Addr12) : FixedDigits.Statement (.jp nnn) := (packNNN_and_op _ nnn).trans rfl
theorem FixedDigits.call (nnn : Addr12) : FixedDigits.Statement (.call nnn) := (packNNN_and_op _ nnn).trans rfl
theorem FixedDigits.seImm (x : Nibble) (nn : Byte) : FixedDigits.Statement (.seImm x nn) := (packXNN_and_op _ x nn).trans rfl
theorem FixedDigits.sneImm (x : Nibble) (nn : Byte) : FixedDigits.Statement (.sneImm x nn) := (packXNN_and_op _ x nn).trans rfl
theorem FixedDigits.seReg (x : Nibble) (y : Nibble) : FixedDigits.Statement (.seReg x y) := (packXYN_and_digits _ x y _).trans rfl
theorem FixedDigits.ldImm (x : Nibble) (nn : Byte) : FixedDigits.Statement (.ldImm x nn) := (packXNN_and_op _ x nn).trans rfl
theorem FixedDigits.addImm (x : Nibble) (nn : Byte) : FixedDigits.Statement (.addImm x nn) := (packXNN_and_op _ x nn).trans rfl
theorem FixedDigits.ldReg (x : Nibble) (y : Nibble) : FixedDigits.Statement (.ldReg x y) := (packXYN_and_digits _ x y _).trans rfl
theorem FixedDigits.orReg (x : Nibble) (y : Nibble) : FixedDigits.Statement (.orReg x y) := (packXYN_and_digits _ x y _).trans rfl
theorem FixedDigits.andReg (x : Nibble) (y : Nibble) : FixedDigits.Statement (.andReg x y) := (packXYN_and_digits _ x y _).trans rfl
theorem FixedDigits.xorReg (x : Nibble) (y : Nibble) : FixedDigits.Statement (.xorReg x y) := (packXYN_and_digits _ x y _).trans rfl
theorem FixedDigits.addReg (x : Nibble) (y : Nibble) : FixedDigits.Statement (.addReg x y) := (packXYN_and_digits _ x y _).trans rfl
theorem FixedDigits.subReg (x : Nibble) (y : Nibble) : FixedDigits.Statement (.subReg x y) := (packXYN_and_digits _ x y _).trans rfl
theorem FixedDigits.shr (x : Nibble) (y : Nibble) : FixedDigits.Statement (.shr x y) := (packXYN_and_digits _ x y _).trans rfl
theorem FixedDigits.subnReg (x : Nibble) (y : Nibble) : FixedDigits.Statement (.subnReg x y) := (packXYN_and_digits _ x y _).trans rfl
theorem FixedDigits.shl (x : Nibble) (y : Nibble) : FixedDigits.Statement (.shl x y) := (packXYN_and_digits _ x y _).trans rfl
theorem FixedDigits.sneReg (x : Nibble) (y : Nibble) : FixedDigits.Statement (.sneReg x y) := (packXYN_and_digits _ x y _).trans rfl
theorem FixedDigits.ldI (nnn : Addr12) : FixedDigits.Statement (.ldI nnn) := (packNNN_and_op _ nnn).trans rfl
theorem FixedDigits.jpV0 (nnn : Addr12) : FixedDigits.Statement (.jpV0 nnn) := (packNNN_and_op _ nnn).trans rfl
theorem FixedDigits.rnd (x : Nibble) (nn : Byte) : FixedDigits.Statement (.rnd x nn) := (packXNN_and_op _ x nn).trans rfl
theorem FixedDigits.drw (x : Nibble) (y : Nibble) (n : Nibble) : FixedDigits.Statement (.drw x y n) := (packXYN_and_op _ x y n).trans rfl
theorem FixedDigits.skp (x : Nibble) : FixedDigits.Statement (.skp x) := (packXNN_and_digits _ x _).trans rfl
theorem FixedDigits.sknp (x : Nibble) : FixedDigits.Statement (.sknp x) := (packXNN_and_digits _ x _).trans rfl
theorem FixedDigits.ldVxDt (x : Nibble) : FixedDigits.Statement (.ldVxDt x) := (packXNN_and_digits _ x _).trans rfl
theorem FixedDigits.ldVxK (x : Nibble) : FixedDigits.Statement (.ldVxK x) := (packXNN_and_digits _ x _).trans rfl
theorem FixedDigits.ldDtVx (x : Nibble) : FixedDigits.Statement (.ldDtVx x) := (packXNN_and_digits _ x _).trans rfl
theorem FixedDigits.ldStVx (x : Nibble) : FixedDigits.Statement (.ldStVx x) := (packXNN_and_digits _ x _).trans rfl
theorem FixedDigits.addI (x : Nibble) : FixedDigits.Statement (.addI x) := (packXNN_and_digits _ x _).trans rfl
theorem FixedDigits.ldF (x : Nibble) : FixedDigits.Statement (.ldF x) := (packXNN_and_digits _ x _).trans rfl
theorem FixedDigits.ldB (x : Nibble) : FixedDigits.Statement (.ldB x) := (packXNN_and_digits _ x _).trans rfl
theorem FixedDigits.ldMemVx (x : Nibble) : FixedDigits.Statement (.ldMemVx x) := (packXNN_and_digits _ x _).trans rfl
theorem FixedDigits.ldVxMem (x : Nibble) : FixedDigits.Statement (.ldVxMem x) := (packXNN_and_digits _ x _).trans rfl

end Sys2Proof.Laws
end

