-- ==== Sys2Proof/Laws/Scheduler.lean ====
section
/-! SUPPORT. The scheduler's operations: a cycle, the two loops, a write of the keypad (60_exceptions.md R168 to R171). -/

namespace Sys2Proof.Machine

/-- A timer counts down by 1 and stops at 0 (R168). -/
@[simp] theorem countDown_toNat (b : Byte) : (countDown b).toNat = b.toNat - 1 := by
  unfold countDown
  split
  · rename_i h; simp [h]
  · rename_i h
    have : b.toNat ≠ 0 := fun e => h (BitVec.eq_of_toNat_eq (by simpa using e))
    simp; omega

/-- A cycle is a step and the snapshot after it (R171). -/
theorem cpuCycle_cases {s u : State} (h : cpuCycle s = .next u) : ∃ t, step s = .next t ∧ u = t.snapshot := by
  unfold cpuCycle at h
  split at h
  · rename_i t ht; exact ⟨t, ht, by cases h; rfl⟩
  · cases h
  · cases h

theorem cpuCycle_of_step {s t : State} (h : step s = .next t) : cpuCycle s = .next t.snapshot := by
  simp [cpuCycle, h]

/-- The timer loop leaves everything but the timers and `ACC_T` alone. -/
theorem timerLoop_keeps (fuel : Nat) (s : State) : KeepsExcept [.dt, .st, .accT] s (timerLoop fuel s) := by
  induction fuel generalizing s with
  | zero => exact KeepsExcept.refl _ s
  | succ n ih =>
    unfold timerLoop
    split
    · refine KeepsExcept.trans ?_ (ih _)
      intro p hp; cases p <;> simp_all [Part.same, State.timerTick]
    · exact KeepsExcept.refl _ s

/-- With enough fuel the timer loop leaves `ACC_T` below the period. -/
theorem timerLoop_accT (fuel : Nat) (s : State) (hp : 0 < s.cfg.timerPeriodQ) (hf : s.accT ≤ fuel) :
    (timerLoop fuel s).accT = s.accT % s.cfg.timerPeriodQ := by
  induction fuel generalizing s with
  | zero =>
    have : s.accT = 0 := by omega
    simp [timerLoop, this]
  | succ n ih =>
    unfold timerLoop
    split
    · rename_i h
      rw [ih _ (by simpa [State.timerTick] using hp) (by simp [State.timerTick]; omega)]
      simp only [State.timerTick, State.setAccT_accT, State.setAccT_cfg, State.setSt_cfg, State.setDt_cfg]
      rw [Nat.mod_eq_sub_mod h]
    · rename_i h; rw [Nat.mod_eq_of_lt (by omega)]

end Sys2Proof.Machine
end

