-- ==== Sys2Proof/Tests/Slice0.lean ====
section
/-! SUPPORT. Tests. Expected results come from the spec: the patterns of 30_encoding.md R69, the examples of the instruction
rules, and the vectors of 95_test_vectors.md, whose ids are named. -/

namespace Sys2Proof.Tests

open Sys2Proof Sys2Proof.Machine

/-! ### WellFormed: the one check, with terms it refuses -/

theorem test_sys_of_cls_is_ill_formed : Instr.wellFormed (.sys 0x0E0) = false := by decide

theorem test_sys_of_ret_is_ill_formed : Instr.wellFormed (.sys 0x0EE) = false := by decide

theorem test_sys_next_to_cls_is_well_formed : Instr.wellFormed (.sys 0x0E1) = true := by decide

/-! ### Decode: a word written out from each pattern of R69, and unrecognised words (FD9 to FD15) -/

theorem test_decode_cls : decode 0x00E0#16 = .ok (.cls) := by decide

theorem test_decode_ret : decode 0x00EE#16 = .ok (.ret) := by decide

theorem test_decode_sys : decode 0x0123#16 = .ok (.sys 0x123) := by decide

theorem test_decode_jp : decode 0x1ABC#16 = .ok (.jp 0xABC) := by decide

theorem test_decode_call : decode 0x2210#16 = .ok (.call 0x210) := by decide

theorem test_decode_seImm : decode 0x3205#16 = .ok (.seImm 2 0x05) := by decide

theorem test_decode_sneImm : decode 0x4A7F#16 = .ok (.sneImm 0xA 0x7F) := by decide

theorem test_decode_seReg : decode 0x5120#16 = .ok (.seReg 1 2) := by decide

theorem test_decode_ldImm : decode 0x6A3C#16 = .ok (.ldImm 0xA 0x3C) := by decide

theorem test_decode_addImm : decode 0x7002#16 = .ok (.addImm 0 0x02) := by decide

theorem test_decode_ldReg : decode 0x8130#16 = .ok (.ldReg 1 3) := by decide

theorem test_decode_orReg : decode 0x8121#16 = .ok (.orReg 1 2) := by decide

theorem test_decode_andReg : decode 0x8122#16 = .ok (.andReg 1 2) := by decide

theorem test_decode_xorReg : decode 0x8123#16 = .ok (.xorReg 1 2) := by decide

theorem test_decode_addReg : decode 0x81F4#16 = .ok (.addReg 1 0xF) := by decide

theorem test_decode_subReg : decode 0x8F15#16 = .ok (.subReg 0xF 1) := by decide

theorem test_decode_shr : decode 0x8126#16 = .ok (.shr 1 2) := by decide

theorem test_decode_subnReg : decode 0x8127#16 = .ok (.subnReg 1 2) := by decide

theorem test_decode_shl : decode 0x812E#16 = .ok (.shl 1 2) := by decide

theorem test_decode_sneReg : decode 0x9120#16 = .ok (.sneReg 1 2) := by decide

theorem test_decode_ldI : decode 0xA300#16 = .ok (.ldI 0x300) := by decide

theorem test_decode_jpV0 : decode 0xB234#16 = .ok (.jpV0 0x234) := by decide

theorem test_decode_rnd : decode 0xC30F#16 = .ok (.rnd 3 0x0F) := by decide

theorem test_decode_drw : decode 0xD125#16 = .ok (.drw 1 2 5) := by decide

theorem test_decode_skp : decode 0xE09E#16 = .ok (.skp 0) := by decide

theorem test_decode_sknp : decode 0xE0A1#16 = .ok (.sknp 0) := by decide

theorem test_decode_ldVxDt : decode 0xF107#16 = .ok (.ldVxDt 1) := by decide

theorem test_decode_ldVxK : decode 0xF30A#16 = .ok (.ldVxK 3) := by decide

theorem test_decode_ldDtVx : decode 0xF015#16 = .ok (.ldDtVx 0) := by decide

theorem test_decode_ldStVx : decode 0xF018#16 = .ok (.ldStVx 0) := by decide

theorem test_decode_addI : decode 0xF11E#16 = .ok (.addI 1) := by decide

theorem test_decode_ldF : decode 0xF029#16 = .ok (.ldF 0) := by decide

theorem test_decode_ldB : decode 0xF033#16 = .ok (.ldB 0) := by decide

theorem test_decode_ldMemVx : decode 0xF255#16 = .ok (.ldMemVx 2) := by decide

theorem test_decode_ldVxMem : decode 0xFF65#16 = .ok (.ldVxMem 0xF) := by decide

theorem test_decode_unrecognised_5121 : decode 0x5121#16 = .error .op5 := by decide

theorem test_decode_unrecognised_8128 : decode 0x8128#16 = .error .op8 := by decide

theorem test_decode_unrecognised_812F : decode 0x812F#16 = .error .op8 := by decide

theorem test_decode_unrecognised_9121 : decode 0x9121#16 = .error .op9 := by decide

theorem test_decode_unrecognised_E0FF : decode 0xE0FF#16 = .error .opE := by decide

theorem test_decode_unrecognised_F0FF : decode 0xF0FF#16 = .error .opF := by decide

theorem test_decode_unrecognised_F0A0 : decode 0xF0A0#16 = .error .opF := by decide

theorem test_decode_bytes_are_big_endian : decodeBytes [0x12, 0x00, 0xAA] = .ok (.jp 0x200, [0xAA]) := by decide

theorem test_decode_one_byte_is_too_short : decodeBytes [0x12] = .error .tooShort := by decide

theorem test_decode_table_word : decodeTableWord 16 0x8124 = some (.addReg 1 2) := by decide

/-! ### Steps: each vector is one step from the reset state changed as its "before" says -/

/-- What a step leaves, seen through `f`; none when it stops. -/
def look {α : Type} (f : State → α) (r : Result) : Option α :=
  match r with
  | .next t => some (f t)
  | .fault _ => none
  | .refused _ => none

/-- The reset state with `PC` = 0x300. -/
def at300 : State := State.reset.setPc 0x300

/-- One step with the word `w` placed where the next fetch reads. -/
def stepWord (w : Nat) (s : State) : Result := step (s.withFetchWord 16 w)

/-- The reset state with `V1` and `V2`. -/
def v12 (a b : Byte) : State := (State.reset.setReg 1 a).setReg 2 b

/-- FD6, R88 -/
theorem test_sys_is_a_no_op :
    look (fun t => (t.pc, t.viol)) (stepWord 0x0123 (State.reset)) = some (0x202, 0) := by decide

/-- FD11 -/
theorem test_unrecognised_is_a_no_op :
    look (fun t => (t.pc, t.reg 1, t.reg 0xF)) (stepWord 0x8128 (v12 0x10 0x20)) = some (0x202, 0x10, 0) := by decide

/-- FD1 -/
theorem test_fetch_odd_pc :
    look (fun t => (t.reg 0, t.viol, t.pc)) (stepWord 0x607B (State.reset.setPc 0x201)) = some (0x7B, 0x10, 0x203) := by decide

/-- FD2: both flags, the low byte from 0x000 -/
theorem test_fetch_wraps_at_top :
    look (fun t => (t.reg 0xA, t.viol, t.pc)) (stepWord 0x6ABC (State.reset.setPc 0xFFF)) = some (0xBC, 0x18, 0x1001) := by decide

/-- FD5 -/
theorem test_pc_wraps :
    look (fun t => (t.viol, t.pc)) (stepWord 0x0000 (State.reset.setPc 0xFFFE)) = some (0x08, 0) := by decide

/-- CT1 -/
theorem test_ret_pops :
    look (fun t => (t.sp, t.pc)) (stepWord 0x00EE (((State.reset.setSp 1).setStack (State.reset.stack.set 0 0x204)).setPc 0x212)) = some (0, 0x206) := by decide

/-- CT2 -/
theorem test_ret_underflow :
    look (fun t => (t.viol, t.sp, t.pc)) (stepWord 0x00EE (State.reset.setPc 0x212)) = some (0x02, 0, 0x214) := by decide

/-- CT5 -/
theorem test_jp_to_self :
    look (fun t => t.pc) (stepWord 0x1200 (State.reset)) = some 0x200 := by decide

/-- CT7 -/
theorem test_call_fills_last_entry :
    look (fun t => (t.sp, t.stack[15], t.pc)) (stepWord 0x2400 ((State.reset.setSp 15).setPc 0x300)) = some (16, 0x300, 0x400) := by decide

/-- CT8 -/
theorem test_call_overflow :
    look (fun t => (t.viol, t.sp, t.pc)) (stepWord 0x2400 ((State.reset.setSp 16).setPc 0x300)) = some (0x01, 16, 0x302) := by decide

/-- CT12 -/
theorem test_jpV0_above_memory :
    look (fun t => t.pc) (stepWord 0xBFFF (State.reset.setReg 0 0xFF)) = some 0x10FE := by decide

/-- CT15 -/
theorem test_jpV0_ignores_x :
    look (fun t => t.pc) (stepWord 0xB234 ((State.reset.setReg 0 1).setReg 2 0x77)) = some 0x235 := by decide

/-- SK1 -/
theorem test_seImm_skips :
    look (fun t => t.pc) (stepWord 0x3205 (at300.setReg 2 5)) = some 0x304 := by decide

/-- SK3 -/
theorem test_sneImm_does_not_skip :
    look (fun t => t.pc) (stepWord 0x4205 (at300.setReg 2 5)) = some 0x302 := by decide

/-- SK5 -/
theorem test_seReg_skips :
    look (fun t => t.pc) (stepWord 0x5120 ((at300.setReg 1 0x10).setReg 2 0x10)) = some 0x304 := by decide

/-- SK8 -/
theorem test_sneReg_skips :
    look (fun t => t.pc) (stepWord 0x9120 ((at300.setReg 1 0x10).setReg 2 0x11)) = some 0x304 := by decide

/-- SK13 -/
theorem test_skp_pressed :
    look (fun t => t.pc) (stepWord 0xE09E (keypadWrite 0x0020 (at300.setReg 0 5))) = some 0x304 := by decide

/-- SK17 -/
theorem test_skp_key_16 :
    look (fun t => (t.viol, t.pc)) (stepWord 0xE09E (keypadWrite 0xFFFF (at300.setReg 0 0x10))) = some (0x20, 0x302) := by decide

/-- SK16 -/
theorem test_sknp_pressed :
    look (fun t => t.pc) (stepWord 0xE0A1 (keypadWrite 0x0020 (at300.setReg 0 5))) = some 0x302 := by decide

/-- SK18 -/
theorem test_sknp_key_16 :
    look (fun t => (t.viol, t.pc)) (stepWord 0xE0A1 (keypadWrite 0xFFFF (at300.setReg 0 0x10))) = some (0x20, 0x304) := by decide

/-- AL1 -/
theorem test_ldImm :
    look (fun t => (t.reg 0xA, t.pc)) (stepWord 0x6A3C (State.reset)) = some (0x3C, 0x202) := by decide

/-- AL2 -/
theorem test_addImm_wraps_without_flag :
    look (fun t => (t.reg 0, t.reg 0xF)) (stepWord 0x7002 ((State.reset.setReg 0 0xFF).setReg 0xF 7)) = some (1, 7) := by decide

/-- AL4 -/
theorem test_ldReg :
    look (fun t => t.reg 1) (stepWord 0x8130 (State.reset.setReg 3 0x42)) = some 0x42 := by decide

/-- AL5 -/
theorem test_orReg_keeps_vf :
    look (fun t => (t.reg 1, t.reg 0xF)) (stepWord 0x8121 ((v12 0xF0 0x0F).setReg 0xF 5)) = some (0xFF, 5) := by decide

/-- AL6 -/
theorem test_andReg_keeps_vf :
    look (fun t => (t.reg 1, t.reg 0xF)) (stepWord 0x8122 ((v12 0xF0 0x3C).setReg 0xF 5)) = some (0x30, 5) := by decide

/-- AL7 -/
theorem test_xorReg_keeps_vf :
    look (fun t => (t.reg 1, t.reg 0xF)) (stepWord 0x8123 ((v12 0xF0 0x3C).setReg 0xF 5)) = some (0xCC, 5) := by decide

/-- AL9, W1 -/
theorem test_addReg_carry :
    look (fun t => (t.reg 1, t.reg 0xF)) (stepWord 0x8124 (v12 0xFF 0x01)) = some (0, 1) := by decide

/-- AL13 -/
theorem test_addReg_into_vf :
    look (fun t => t.reg 0xF) (stepWord 0x8F14 ((State.reset.setReg 1 1).setReg 0xF 0xFF)) = some 1 := by decide

/-- W2 -/
theorem test_subReg_borrow :
    look (fun t => (t.reg 1, t.reg 0xF)) (stepWord 0x8125 ((v12 0x01 0x02).setReg 0xF 5)) = some (0xFF, 0) := by decide

/-- AL20 -/
theorem test_subReg_reads_flag_as_y :
    look (fun t => (t.reg 1, t.reg 0xF)) (stepWord 0x81F5 ((State.reset.setReg 1 0x10).setReg 0xF 3)) = some (0x0F, 1) := by decide

/-- AL22, W3 -/
theorem test_shr_puts_out_bit_0 :
    look (fun t => (t.reg 1, t.reg 0xF)) (stepWord 0x8106 (State.reset.setReg 1 3)) = some (1, 1) := by decide

/-- AL24 -/
theorem test_shr_of_vf :
    look (fun t => t.reg 0xF) (stepWord 0x8F06 (State.reset.setReg 0xF 3)) = some 0 := by decide

/-- AL27 -/
theorem test_subnReg_no_borrow :
    look (fun t => (t.reg 1, t.reg 0xF)) (stepWord 0x8127 (v12 0x01 0x05)) = some (4, 1) := by decide

/-- AL29 -/
theorem test_subnReg_into_vf :
    look (fun t => t.reg 0xF) (stepWord 0x8F17 ((State.reset.setReg 1 5).setReg 0xF 3)) = some 4 := by decide

/-- AL36 -/
theorem test_shl_ignores_y :
    look (fun t => (t.reg 1, t.reg 0xF)) (stepWord 0x812E (v12 0x01 0x80)) = some (2, 0) := by decide

/-- AL34 -/
theorem test_shl_of_vf :
    look (fun t => t.reg 0xF) (stepWord 0x8F0E (State.reset.setReg 0xF 0x81)) = some 2 := by decide

/-- IM1 -/
theorem test_ldI :
    look (fun t => t.i) (stepWord 0xA300 (State.reset)) = some 0x300 := by decide

/-- IM2 -/
theorem test_addI_wraps :
    look (fun t => (t.i, t.reg 0xF)) (stepWord 0xF11E ((State.reset.setI 0xFFFF).setReg 1 2)) = some (1, 0) := by decide

/-- IM8 -/
theorem test_ldF_does_not_mask :
    look (fun t => t.i) (stepWord 0xF029 (State.reset.setReg 0 0x1A)) = some 0x0082 := by decide

/-- IM13 -/
theorem test_ldB_wraps_at_top :
    look (fun t => (t.byteAt 0xFFE, t.byteAt 0xFFF, t.byteAt 0, t.viol)) (stepWord 0xF033 ((State.reset.setReg 0 0xFF).setI 0xFFE)) = some (2, 5, 5, 0x04) := by decide

/-- IM14 -/
theorem test_ldMemVx :
    look (fun t => (t.byteAt 0x400, t.byteAt 0x401, t.byteAt 0x402, t.i)) (stepWord 0xF255 (((v12 2 3).setReg 0 1).setI 0x400)) = some (1, 2, 3, 0x400) := by decide

/-- IM18 -/
theorem test_ldVxMem_wraps_into_font :
    look (fun t => (t.reg 0, t.reg 1, t.viol)) (stepWord 0xF165 ((State.reset.setI 0xFFF).putByte 0xFFF 0x44)) = some (0x44, 0xF0, 0x04) := by decide

/-- IM16 -/
theorem test_ldVxMem_stops_at_x :
    look (fun t => (t.reg 2, t.reg 3)) (stepWord 0xF265 (((State.reset.setI 0x400).putByte 0x402 0x12).setReg 3 0xAA)) = some (0x12, 0xAA) := by decide

/-- DS1 -/
theorem test_cls :
    look (fun t => fbByte t.fb 255) (stepWord 0x00E0 (State.reset.setFb (State.reset.fb.set 255 0x81))) = some 0 := by decide

set_option maxRecDepth 8000 in
/-- DS3 -/
theorem test_drw_wraps_at_both_edges :
    look (fun t => (fbByte t.fb 0, fbByte t.fb 7, fbByte t.fb 248, fbByte t.fb 255)) (stepWord 0xD122 ((((v12 0x3E 0x1F).setI 0x300).putByte 0x300 0xFF).putByte 0x301 0xFF)) = some (0xFC, 0x03, 0xFC, 0x03) := by decide

set_option maxRecDepth 8000 in
/-- DS5 -/
theorem test_drw_collision :
    look (fun t => (t.reg 0xF, fbByte t.fb 0)) (stepWord 0xD121 (((State.reset.setI 0x300).putByte 0x300 0xC0).setFb (State.reset.fb.set 0 0x80))) = some (1, 0x40) := by decide

/-- KY1 -/
theorem test_ldVxDt :
    look (fun t => t.reg 1) (stepWord 0xF107 (State.reset.setDt 0x3C)) = some 0x3C := by decide

/-- KY4 -/
theorem test_ldVxK_lowest_press :
    look (fun t => (t.reg 3, t.pc)) (stepWord 0xF30A (keypadWrite 0x0120 State.reset)) = some (5, 0x202) := by decide

/-- KY5 -/
theorem test_ldVxK_holds :
    look (fun t => (t.reg 3, t.pc)) (stepWord 0xF30A ((keypadWrite 0x0020 State.reset).snapshot)) = some (0, 0x200) := by decide

/-- KY2 -/
theorem test_ldDtVx :
    look (fun t => t.dt) (stepWord 0xF015 (State.reset.setReg 0 5)) = some 5 := by decide

/-- KY3 -/
theorem test_ldStVx :
    look (fun t => (t.st, t.soundOn)) (stepWord 0xF018 (State.reset.setReg 0 2)) = some (2, true) := by decide

/-- AL37, for a drawn byte A5. -/
theorem test_randomAnd : look (fun t => t.reg 3) (randomAnd 0xA5 3 0x0F State.reset) = some 5 := by decide

/-- `CXNN` as the first instruction runs, and its draw is counted. -/
theorem test_rnd_counts_its_draw : look (fun t => (t.draws, t.pc)) (stepWord 0xC30F State.reset) = some (1, 0x202) := by decide

/-! ### The scheduler and the host -/

/-- TM1: five quanta make no step, the sixth does. -/
theorem test_advance_six : look (fun t => (t.accT, t.accC, t.pc)) (advance 6 State.reset) = some (6, 0, 0x202) := by decide

/-- TM10 in part: with `ACC_T` = 49 one quantum is a tick. -/
theorem test_advance_ticks :
    look (fun t => (t.dt, t.st, t.accT, t.accC)) (advance 1 ((State.reset.setDt 0x64).setAccT 49)) =
      some (0x63, 0, 0, 1) := by decide

/-- TM11: the snapshot follows the step. -/
theorem test_snapshot : look (fun t => t.keypadPrev) (cpuCycle (keypadWrite 4 State.reset)) = some 4 := by decide

/-- W6b: LOAD(12 34), then one period. -/
theorem test_load_then_advance :
    look (fun t => t.pc) (advance 6 (installImage [0x12, 0x34] State.reset)) = some 0x234 := by decide

/-- RL4: glyph A, glyph F's last byte, the first byte after the font. -/
theorem test_reset_font :
    (State.reset.byteAt 0x032, State.reset.byteAt 0x04F, State.reset.byteAt 0x050) = (0xF0, 0x80, 0) := by decide

/-! ### Witnesses: for each statement with hypotheses, values that meet them together (clauses at their boundaries) -/

theorem witness_DecodeOfEncodeIsIdentity : Instr.wellFormed (.drw 0xF 0 0xF) = true := by decide

theorem witness_EncodeOfDecodeIsIdentity : decode 0xDF0F#16 = .ok (.drw 0xF 0 0xF) := by decide

theorem witness_StepRunsTheDecodedInstruction :
    decode (wordOfBytes ((State.reset.withFetchWord 16 0x1234).byteAt 0x200)
      ((State.reset.withFetchWord 16 0x1234).byteAt 0x201)) = .ok (.jp 0x234) := by decide

theorem witness_FetchFlagsOddAndOutOfMemoryPc : decode (at300.withFetchWord 16 0x6ABC).fetchWord = .ok (.ldImm 0xA 0xBC) := by
  decide

theorem witness_SysAndUnrecognisedWordsOnlyAdvance :
    decode (State.reset.withFetchWord 16 0xF0FF).fetchWord = .error .opF := by decide

theorem witness_CallPushes_last_entry : (State.reset.setSp 15).sp.toNat < 16 := by decide

theorem witness_CallOverflows : (State.reset.setSp 16).sp.toNat = 16 := by decide

theorem witness_ReturnPops_full_stack : (State.reset.setSp 16).sp.toNat - 1 < 16 ∧ (State.reset.setSp 16).sp.toNat ≠ 0 := by
  decide

theorem witness_ReturnPops_one_entry : (State.reset.setSp 1).sp.toNat - 1 < 16 ∧ (State.reset.setSp 1).sp.toNat ≠ 0 := by
  decide

theorem witness_ReturnUnderflows : State.reset.sp.toNat = 0 := by decide

theorem witness_IllegalStackPointerStops : 16 < (State.reset.setSp 17).sp.toNat := by decide

theorem witness_ReturnLandsPastItsCall :
    look (fun t => (t.sp, t.stack[15])) (exec (.call 0x400) (State.reset.setSp 15)) = some (16, 0x200) := by decide

theorem witness_SkipsOnKey_15 : ((State.reset.setReg 0 15).reg 0).toNat ≤ 15 := by decide

theorem witness_SkipsOnKey_16 : 15 < ((State.reset.setReg 0 16).reg 0).toNat := by decide

theorem witness_SubWritesNoBorrowFirst :
    (1 : Nibble) ≠ vf ∧ (2 : Nibble) ≠ vf ∧ (0xF : Nibble) = vf := by decide

/-- The invariant holds of a state with a listed byte, a full stack and every cause recorded. -/
theorem witness_Inv : (((State.reset.setI 0xFFE).putByte 0xFFF 7).setSp 16 |>.setViol 0x3F).Inv := by decide

theorem witness_StoreRegisters_all : (0xF : Nibble).toNat ≤ (0xF : Nibble).toNat ∧ (0 : Nibble).toNat ≤ (0 : Nibble).toNat := by
  decide

theorem witness_LoadRegisters_above : (0 : Nibble).toNat < (1 : Nibble).toNat := by decide

theorem witness_StoredBytesAreFetched :
    (State.reset.setI 0x300).Inv ∧ 1 ≤ (1 : Nibble).toNat ∧ (0x300#16).toNat = (State.reset.setI 0x300).i.toNat := by decide

theorem witness_CanonicalMemories :
    Memory.wf Config.conventionalFont (Memory.write Config.conventionalFont [] 0 0xAB) = true ∧
    Memory.wf Config.conventionalFont [(0, 0xAB)] = true ∧
    Memory.write Config.conventionalFont [] 0 0xAB = [(0, 0xAB)] := by decide

/-- A sprite pixel at the far corner of a wrapping draw is covered, and one beside the sprite is not. -/
theorem witness_SpriteCovers :
    SpriteCovers 1 2 1 ((((v12 0x3F 0x1F).setI 0x300).putByte 0x300 0x81)) 6 31 :=
  ⟨7, 0, by decide, by decide, by decide, by decide, by decide⟩

theorem witness_SpriteCovers_not : ¬ SpriteCovers 1 2 0 State.reset 0 0 := by
  rintro ⟨j, r, -, h, -⟩
  exact absurd h (Nat.not_lt_zero r)

/-- The hypotheses of the collision clause: a covered pixel that is set. -/
theorem witness_DrawCollision :
    SpriteCovers 1 2 1 (((State.reset.setI 0x300).putByte 0x300 0xC0).setFb (State.reset.fb.set 0 0x80)) 0 0 ∧
    fbPixel (((State.reset.setI 0x300).putByte 0x300 0xC0).setFb (State.reset.fb.set 0 0x80)).fb 0 0 = true :=
  ⟨⟨0, 0, by decide, by decide, by decide, by decide, by decide⟩, by decide⟩

theorem witness_DrawTwiceRestoresTheScreen : (0xE : Nibble) ≠ vf ∧
    ∃ t, exec (.drw 0xE 0 1) State.reset = .next t ∧ t.reg 0xE = State.reset.reg 0xE ∧ t.reg 0 = State.reset.reg 0 :=
  ⟨by decide, _, rfl, by decide, by decide⟩

theorem witness_ByteLevelDraw_edges : (63 : Nat) < 64 ∧ (31 : Nat) < 32 := by decide

theorem witness_KeyWaitHolds :
    ∀ k, k < 16 → (keypadWrite 0x8001 State.reset).snapshot.keypad.getLsbD k =
      (keypadWrite 0x8001 State.reset).snapshot.keypadPrev.getLsbD k := by decide

theorem witness_KeyWaitReports_key_15 :
    (15 : Nat) < 16 ∧ (keypadWrite 0x8000 State.reset).keypad.getLsbD 15 ≠ State.reset.keypadPrev.getLsbD 15 ∧
    ∀ j, j < 15 → (keypadWrite 0x8000 State.reset).keypad.getLsbD j = State.reset.keypadPrev.getLsbD j := by decide

theorem witness_SnapshotFollowsEveryStep : ∃ t, step State.reset = .next t :=
  ⟨_, rfl⟩

theorem witness_KeyWaitEndsOnlyByTheHost : ∃ u, cpuCycle State.reset = .next u ∧ (1 : Word) ≠ u.keypad :=
  ⟨_, rfl, by decide⟩

theorem witness_InstructionsChangeOnly : ∃ t, exec (.ldImm 0xF 7) State.reset = .next t ∧ t.reg vf ≠ State.reset.reg vf :=
  ⟨_, rfl, by decide⟩

/-- The hypotheses of the violation rule, with bit 0 newly set: a call with a full stack. -/
theorem witness_ViolationBits :
    decode ((State.reset.setSp 16).withFetchWord 16 0x2400).fetchWord = .ok (.call 0x400) ∧
    look (fun t => t.viol.getLsbD 0) (stepWord 0x2400 (State.reset.setSp 16)) = some true := by decide

theorem witness_HiddenState :
    (((State.reset.setSt 9).setAccT 3).setViol 0x04).mem = State.reset.mem ∧
    KeepsExcept [.st, .accT, .accC, .viol] State.reset (((State.reset.setSt 9).setAccT 3).setViol 0x04) ∧
    ∃ t, exec (.ldB 0) State.reset = .next t := by
  refine ⟨rfl, ?_, _, rfl⟩
  intro p hp
  cases p <;> simp_all [Part.same]

theorem witness_OnlyKeyWaitReadsTheSnapshot :
    (∀ x, Instr.skp 0 ≠ .ldVxK x) ∧
    (keypadWrite 1 State.reset).snapshot.mem = (keypadWrite 1 State.reset).mem ∧
    KeepsExcept [.keypadPrev] (keypadWrite 1 State.reset) (keypadWrite 1 State.reset).snapshot ∧
    ∃ t, exec (.skp 0) (keypadWrite 1 State.reset) = .next t := by
  refine ⟨by simp, rfl, ?_, _, rfl⟩
  intro p hp
  cases p <;> simp_all [Part.same]

theorem witness_EveryInstructionCompletes : (State.reset.setSp 16).sp.toNat ≤ 16 := by decide

theorem witness_Config_wf : State.reset.cfg.wf := by decide

theorem witness_LoadFits_exactly :
    State.reset.cfg.loadOffset.toNat + (List.replicate 3584 (0 : Byte)).length ≤ 4096 := by
  rw [List.length_replicate]; decide

theorem witness_LoadTooLarge :
    4096 < State.reset.cfg.loadOffset.toNat + (List.replicate 3585 (0 : Byte)).length := by
  rw [List.length_replicate]; decide

/-- One tick and two cycles are due, and the cycles complete. -/
theorem witness_AdvanceIsDueTicksThenDueCycles :
    (12 : Nat) / 6 = 2 ∧ (49 + 12 : Nat) / 50 = 1 ∧
    ∃ u, runCycles 2 (runTicks 1 (State.reset.setAccT 49)) = .next u :=
  ⟨by decide, by decide, _, rfl⟩

theorem witness_ResetDependsOnlyOnParameters : State.reset.cfg = (State.reset.setReg 1 1).cfg := rfl

theorem witness_AdvanceKeepsKeypad_step_due : ∃ t, advance 1 (State.reset.setAccC 5) = .next t := ⟨_, rfl⟩

theorem witness_AdvanceKeepsKeypad_no_step_due : ∃ t, advance 1 (State.reset.setAccC 4) = .next t := ⟨_, rfl⟩

theorem witness_BetweenTransactions : ((State.reset.setAccT 49).setAccC 5).BetweenTransactions := by decide

end Sys2Proof.Tests
end

section
/-! The frame over all instructions (00_scope.md R15): each instruction's answer is a chain of setters (Laws/Exec), each setter
keeps every other part (Laws/Frame), and the program counter is written last. -/

namespace Sys2Proof.Machine

/-! ### Call and return: everything they can do (40_step_and_control.md R89, R91) -/

theorem exec_call_illegal {s : State} (nnn : Addr12) (h : 16 < s.sp.toNat) :
    exec (.call nnn) s = .fault .stackPointerIllegal := by
  change execCall nnn s = _
  have h16 : s.sp ≠ 16#8 := fun e => by rw [e] at h; exact absurd h (by decide)
  rw [execCall, if_neg h16, dif_neg (by omega)]

theorem exec_ret_illegal {s : State} (h : 16 < s.sp.toNat) : exec .ret s = .fault .stackPointerIllegal := by
  change execRet s = _
  have h0 : s.sp ≠ 0#8 := fun e => by rw [e] at h; exact absurd h (by decide)
  rw [execRet, if_neg h0, dif_neg (by omega)]

/-- A call that answers pushes and jumps, or finds the stack full, flags and advances. -/
theorem exec_call_cases {s t : State} {nnn : Addr12} (h : exec (.call nnn) s = .next t) :
    (∃ hsp : s.sp.toNat < 16,
      t = ((s.setStack (s.stack.set s.sp.toNat s.pc hsp)).setSp (s.sp + 1#8)).setPc (zextAddr nnn)) ∨
    (s.sp = 16#8 ∧ t = (s.setViol (s.viol ||| 1#8)).setPc (s.pc + 2#16)) := by
  rcases Nat.lt_trichotomy s.sp.toNat 16 with hlt | heq | hgt
  · rw [exec_call_push s nnn hlt] at h
    exact .inl ⟨hlt, (Host.Outcome.next.inj h).symm⟩
  · have hsp : s.sp = 16#8 := BitVec.eq_of_toNat_eq heq
    rw [exec_call_overflow s nnn hsp] at h
    exact .inr ⟨hsp, (Host.Outcome.next.inj h).symm⟩
  · rw [exec_call_illegal nnn hgt] at h
    cases h

/-- A return that answers pops and advances, or finds the stack empty, flags and advances. -/
theorem exec_ret_cases {s t : State} (h : exec .ret s = .next t) :
    (∃ hsp : s.sp.toNat - 1 < 16, s.sp ≠ 0#8 ∧
      t = (s.setSp (s.sp - 1#8)).setPc ((s.stack[s.sp.toNat - 1]'hsp) + 2#16)) ∨
    (s.sp = 0#8 ∧ t = (s.setViol (s.viol ||| 2#8)).setPc (s.pc + 2#16)) := by
  by_cases h0 : s.sp = 0#8
  · rw [exec_ret_underflow s h0] at h
    exact .inr ⟨h0, (Host.Outcome.next.inj h).symm⟩
  · rcases Nat.lt_or_ge 16 s.sp.toNat with hgt | hle
    · rw [exec_ret_illegal hgt] at h
      cases h
    · have hsp : s.sp.toNat - 1 < 16 := by omega
      rw [exec_ret_pop s h0 hsp] at h
      exact .inl ⟨hsp, h0, (Host.Outcome.next.inj h).symm⟩

/-! ### Frames of the state changes that several instructions share -/

section
variable {ps qs : List Part} {s t u : State}

/-- What two steps in a row may write is what one of them may write. -/
theorem KeepsExcept.append (h : KeepsExcept ps s t) (h' : KeepsExcept qs t u) : KeepsExcept (ps ++ qs) s u :=
  (h.mono fun _ => List.mem_append_left qs).trans (h'.mono fun _ => List.mem_append_right ps)

theorem KeepsExcept.setPc (h : KeepsExcept ps s t) (a : Word) : KeepsExcept (.pc :: ps) s (t.setPc a) :=
  (h.mono fun _ => List.mem_cons_of_mem _).trans ((keepsExcept_setPc t a).mono (by simp))

/-- An instruction whose answer is `u` with a new `PC` writes `PC` and what `u` differs in. -/
theorem KeepsExcept.of_exec {i : Instr} {a : Word} (e : exec i s = .next (u.setPc a)) (hu : KeepsExcept ps s u)
    (h : exec i s = .next t) : KeepsExcept (.pc :: ps) s t := by
  rw [e] at h
  cases h
  exact hu.setPc a

end

section
variable (s : State)

theorem keepsExcept_setReg_setReg (x y : Nibble) (b c : Byte) : KeepsExcept [.regs] s ((s.setReg x b).setReg y c) :=
  (keepsExcept_setReg s x b).trans (keepsExcept_setReg _ y c)

theorem keepsExcept_setDraws_setReg (n : Nat) (x : Nibble) (b : Byte) :
    KeepsExcept [.regs, .draws] s ((s.setDraws n).setReg x b) :=
  ((keepsExcept_setDraws s n).append (keepsExcept_setReg _ x b)).mono (by simp)

theorem keepsExcept_drawRows_setReg (x0 y0 n : Nat) (x : Nibble) (b : Byte) :
    KeepsExcept [.fb, .regs, .viol] s ((s.drawRows x0 y0 n).1.setReg x b) :=
  ((keepsExcept_drawRows s x0 y0 n).append (keepsExcept_setReg _ x b)).mono (by simp)

theorem keepsExcept_memWrite_three (a₀ a₁ a₂ : Nat) (b₀ b₁ b₂ : Byte) :
    KeepsExcept [.mem, .viol] s (((s.memWrite a₀ b₀).memWrite a₁ b₁).memWrite a₂ b₂) :=
  ((keepsExcept_memWrite s a₀ b₀).trans (keepsExcept_memWrite _ a₁ b₁)).trans (keepsExcept_memWrite _ a₂ b₂)

end

/-! ### The instructions with more than one outcome -/

variable {s t : State}

theorem exec_ret_frame (h : exec .ret s = .next t) : KeepsExcept (writtenParts .ret) s t := by
  obtain ⟨_, -, rfl⟩ | ⟨-, rfl⟩ := exec_ret_cases h
  · exact ((keepsExcept_setSp s _).setPc _).mono (by simp [writtenParts])
  · exact ((keepsExcept_setViol s _).setPc _).mono (by simp [writtenParts])

theorem exec_call_frame {nnn : Addr12} (h : exec (.call nnn) s = .next t) :
    KeepsExcept (writtenParts (.call nnn)) s t := by
  obtain ⟨_, rfl⟩ | ⟨-, rfl⟩ := exec_call_cases h
  · exact (((keepsExcept_setStack s _).append (keepsExcept_setSp _ _)).setPc _).mono (by simp [writtenParts])
  · exact ((keepsExcept_setViol s _).setPc _).mono (by simp [writtenParts])

theorem exec_ldVxK_frame {x : Nibble} (h : exec (.ldVxK x) s = .next t) :
    KeepsExcept (writtenParts (.ldVxK x)) s t := by
  by_cases hk : s.keyChange = 0#16
  · rw [exec_ldVxK_hold s x hk] at h
    cases h
    exact .refl _ s
  · exact .of_exec (exec_ldVxK_key s x hk) (keepsExcept_setReg s x _) h

/-! ### The frame of every instruction -/

/-- Settles O40, by cases on the instruction: in each case the chain of setters it answers with, and that chain's frame. -/
theorem instructionsChangeOnlyWhatTheirRuleNames : Obligations.InstructionsChangeOnlyWhatTheirRuleNames := by
  intro i s t h
  cases i with
  -- control
  | sys nnn => exact .of_exec (exec_sys s nnn) (.refl [] s) h
  | ret => exact exec_ret_frame h
  | jp nnn => exact .of_exec (exec_jp s nnn) (.refl [] s) h
  | call nnn => exact exec_call_frame h
  | jpV0 nnn => exact .of_exec (exec_jpV0 s nnn) (.refl [] s) h
  -- skips
  | seImm x nn => exact .of_exec (exec_seImm s x nn) (.refl [] s) h
  | sneImm x nn => exact .of_exec (exec_sneImm s x nn) (.refl [] s) h
  | seReg x y => exact .of_exec (exec_seReg s x y) (.refl [] s) h
  | sneReg x y => exact .of_exec (exec_sneReg s x y) (.refl [] s) h
  | skp x => exact .of_exec (exec_skp s x) (keepsExcept_keyPressed s _) h
  | sknp x => exact .of_exec (exec_sknp s x) (keepsExcept_keyPressed s _) h
  -- register loads and the ALU
  | ldImm x nn => exact .of_exec (exec_ldImm s x nn) (keepsExcept_setReg s x _) h
  | addImm x nn => exact .of_exec (exec_addImm s x nn) (keepsExcept_setReg s x _) h
  | ldReg x y => exact .of_exec (exec_ldReg s x y) (keepsExcept_setReg s x _) h
  | orReg x y => exact .of_exec (exec_orReg s x y) (keepsExcept_setReg s x _) h
  | andReg x y => exact .of_exec (exec_andReg s x y) (keepsExcept_setReg s x _) h
  | xorReg x y => exact .of_exec (exec_xorReg s x y) (keepsExcept_setReg s x _) h
  | addReg x y => exact .of_exec (exec_addReg s x y) (keepsExcept_setReg_setReg s x vf _ _) h
  | subReg x y => exact .of_exec (exec_subReg s x y _ rfl) (keepsExcept_setReg_setReg s vf x _ _) h
  | shr x y => exact .of_exec (exec_shr s x y _ rfl) (keepsExcept_setReg_setReg s vf x _ _) h
  | subnReg x y => exact .of_exec (exec_subnReg s x y _ rfl) (keepsExcept_setReg_setReg s vf x _ _) h
  | shl x y => exact .of_exec (exec_shl s x y _ rfl) (keepsExcept_setReg_setReg s vf x _ _) h
  | rnd x nn => exact .of_exec (exec_rnd s x nn) (keepsExcept_setDraws_setReg s _ x _) h
  -- the framebuffer
  | cls => exact .of_exec (exec_cls s) (keepsExcept_setFb s _) h
  | drw x y n => exact .of_exec (exec_drw s x y n _ rfl) (keepsExcept_drawRows_setReg s _ _ _ vf _) h
  -- the index register and memory
  | ldI nnn => exact .of_exec (exec_ldI s nnn) (keepsExcept_setI s _) h
  | addI x => exact .of_exec (exec_addI s x) (keepsExcept_setI s _) h
  | ldF x => exact .of_exec (exec_ldF s x) (keepsExcept_setI s _) h
  | ldB x => exact .of_exec (exec_ldB s x) (keepsExcept_memWrite_three s _ _ _ _ _ _) h
  | ldMemVx x => exact .of_exec (exec_ldMemVx s x) (keepsExcept_storeRegs s _ x.isLt) h
  | ldVxMem x => exact .of_exec (exec_ldVxMem s x) (keepsExcept_loadRegs s _ x.isLt) h
  -- timers and keys
  | ldVxDt x => exact .of_exec (exec_ldVxDt s x) (keepsExcept_setReg s x _) h
  | ldVxK x => exact exec_ldVxK_frame h
  | ldDtVx x => exact .of_exec (exec_ldDtVx s x) (keepsExcept_setDt s _) h
  | ldStVx x => exact .of_exec (exec_ldStVx s x) (keepsExcept_setSt s _) h

end Sys2Proof.Machine
end

section
/-! What an instruction does to `VIOL` (10_state.md R33): at most one `Flag`, whose cause the spec names. -/

namespace Sys2Proof.Machine

variable {s t : State} {i : Instr}

/-- An instruction keeps every part its rule does not name. -/
theorem exec_keeps {p : Part} (h : exec i s = .next t) (hp : p ∉ writtenParts i) : p.same s t :=
  instructionsChangeOnlyWhatTheirRuleNames i s t h p hp

/-- The cause that the spec names for each `Flag` of an instruction; the two of the fetch have none here (R33). -/
def ExecCause (i : Instr) (s : State) (f : Violation) : Prop :=
  match f with
  | .stackOverflow => s.sp.toNat = 16 ∧ ∃ nnn, i = .call nnn
  | .stackUnderflow => s.sp.toNat = 0 ∧ i = .ret
  | .memOob =>
    (∃ x, i = .ldB x ∧ 4096 ≤ s.effAddr 2) ∨ (∃ x, i = .ldMemVx x ∧ 4096 ≤ s.effAddr x.toNat) ∨
      (∃ x, i = .ldVxMem x ∧ 4096 ≤ s.effAddr x.toNat) ∨
      (∃ x y n, i = .drw x y n ∧ 0 < n.toNat ∧ 4096 ≤ s.effAddr (n.toNat - 1))
  | .pcOob | .pcMisaligned => False
  | .keyRange => ∃ x, (i = .skp x ∨ i = .sknp x) ∧ 15 < (s.reg x).toNat

/-- From `s` to `t` an instruction `i` raises at most one `Flag`, and one that has its cause. -/
def FlagsWithCause (i : Instr) (s t : State) : Prop :=
  ∃ c f, t.viol = (s.flagIf c f).viol ∧ (c = true → ExecCause i s f)

theorem FlagsWithCause.of_viol_eq (h : t.viol = s.viol) : FlagsWithCause i s t :=
  ⟨false, .memOob, h, by simp⟩

/-- Accesses at `I` .. `I + n - 1` flag `MEM_OOB` when the last one is at 4096 or above. -/
theorem violAfter_eq_flagIf (s : State) (n : Nat) :
    violAfter s n = (s.flagIf (decide (0 < n ∧ 4096 ≤ s.effAddr (n - 1))) .memOob).viol := by
  by_cases h : 0 < n ∧ 4096 ≤ s.effAddr (n - 1)
  · rw [decide_eq_true h]; exact if_pos h
  · rw [decide_eq_false h]; exact if_neg h

theorem FlagsWithCause.of_accesses {n : Nat} (ht : t.viol = violAfter s n)
    (hc : 0 < n → 4096 ≤ s.effAddr (n - 1) → ExecCause i s .memOob) : FlagsWithCause i s t :=
  ⟨_, .memOob, ht.trans (violAfter_eq_flagIf s n), fun h => by
    obtain ⟨hn, ha⟩ := of_decide_eq_true h
    exact hc hn ha⟩

theorem keyPressed_viol (s : State) (k : Byte) :
    (s.keyPressed k).2.viol = (s.flagIf (decide (15 < k.toNat)) .keyRange).viol := by
  unfold State.keyPressed
  by_cases h : k.toNat ≤ 15
  · rw [if_pos h, decide_eq_false (Nat.not_lt.mpr h)]; rfl
  · rw [if_neg h, decide_eq_true (Nat.lt_of_not_le h)]; rfl

theorem memWrite_three_viol (s : State) (b₀ b₁ b₂ : Byte) :
    (((s.memWrite (s.effAddr 0) b₀).memWrite (s.effAddr 1) b₁).memWrite (s.effAddr 2) b₂).viol = violAfter s 3 := by
  simp only [State.memWrite_eq, State.setMem_viol, State.setViol_viol, State.effAddr, ← violAfter_succ, violAfter_zero]

/-! ### The instructions that write `VIOL` -/

theorem exec_ret_viol (h : exec .ret s = .next t) : FlagsWithCause .ret s t := by
  obtain ⟨_, -, rfl⟩ | ⟨hsp, rfl⟩ := exec_ret_cases h
  · exact .of_viol_eq rfl
  · exact ⟨true, .stackUnderflow, rfl, fun _ => ⟨by simp [hsp], rfl⟩⟩

theorem exec_call_viol {nnn : Addr12} (h : exec (.call nnn) s = .next t) : FlagsWithCause (.call nnn) s t := by
  obtain ⟨_, rfl⟩ | ⟨hsp, rfl⟩ := exec_call_cases h
  · exact .of_viol_eq rfl
  · exact ⟨true, .stackOverflow, rfl, fun _ => ⟨by simp [hsp], nnn, rfl⟩⟩

theorem exec_skp_viol {x : Nibble} (h : exec (.skp x) s = .next t) : FlagsWithCause (.skp x) s t := by
  rw [exec_skp] at h
  cases h
  exact ⟨_, .keyRange, keyPressed_viol s _, fun hk => ⟨x, .inl rfl, of_decide_eq_true hk⟩⟩

theorem exec_sknp_viol {x : Nibble} (h : exec (.sknp x) s = .next t) : FlagsWithCause (.sknp x) s t := by
  rw [exec_sknp] at h
  cases h
  exact ⟨_, .keyRange, keyPressed_viol s _, fun hk => ⟨x, .inr rfl, of_decide_eq_true hk⟩⟩

theorem exec_drw_viol {x y n : Nibble} (h : exec (.drw x y n) s = .next t) : FlagsWithCause (.drw x y n) s t := by
  rw [exec_drw s x y n _ rfl] at h
  cases h
  obtain ⟨f, e⟩ := s.drawRows_spec ((s.reg x).toNat % 64) ((s.reg y).toNat % 32) n.toNat
  exact .of_accesses (n := n.toNat) (by simp [e]) fun hn ha => .inr (.inr (.inr ⟨x, y, n, rfl, hn, ha⟩))

theorem exec_ldB_viol {x : Nibble} (h : exec (.ldB x) s = .next t) : FlagsWithCause (.ldB x) s t := by
  rw [exec_ldB] at h
  cases h
  exact .of_accesses (n := 3) (memWrite_three_viol s _ _ (ones (s.reg x))) fun _ ha => .inl ⟨x, rfl, ha⟩

theorem exec_ldMemVx_viol {x : Nibble} (h : exec (.ldMemVx x) s = .next t) : FlagsWithCause (.ldMemVx x) s t := by
  rw [exec_ldMemVx] at h
  cases h
  obtain ⟨m, e, -⟩ := s.storeRegs_spec (x.toNat + 1) x.isLt
  exact .of_accesses (n := x.toNat + 1) (by simp [e]) fun _ ha => .inr (.inl ⟨x, rfl, ha⟩)

theorem exec_ldVxMem_viol {x : Nibble} (h : exec (.ldVxMem x) s = .next t) : FlagsWithCause (.ldVxMem x) s t := by
  rw [exec_ldVxMem] at h
  cases h
  obtain ⟨vs, e, -⟩ := s.loadRegs_spec (x.toNat + 1) x.isLt
  exact .of_accesses (n := x.toNat + 1) (by simp [e]) fun _ ha => .inr (.inr (.inl ⟨x, rfl, ha⟩))

/-- Every instruction raises at most one `Flag`, with its cause. -/
theorem exec_flagsWithCause (h : exec i s = .next t) : FlagsWithCause i s t := by
  by_cases hv : Part.viol ∈ writtenParts i
  · cases i with
    | ret => exact exec_ret_viol h
    | call nnn => exact exec_call_viol h
    | skp x => exact exec_skp_viol h
    | sknp x => exact exec_sknp_viol h
    | drw x y n => exact exec_drw_viol h
    | ldB x => exact exec_ldB_viol h
    | ldMemVx x => exact exec_ldMemVx_viol h
    | ldVxMem x => exact exec_ldVxMem_viol h
    | _ => simp [writtenParts] at hv
  · exact .of_viol_eq (exec_keeps h hv)

/-- Every instruction leaves `VIOL[7:6]` as it was (R33). -/
theorem exec_viol_reserved (h : exec i s = .next t) : t.viol.extractLsb' 6 2 = s.viol.extractLsb' 6 2 := by
  obtain ⟨c, f, hv, -⟩ := exec_flagsWithCause h
  rw [hv, viol_reserved_flagIf]

/-! ### A step's `VIOL`: the fetch's flags, then the instruction's -/

/-- Bit `j` of `VIOL` after the fetch (R68). -/
theorem viol_bit_fetchFlags (s : State) (j : Nat) :
    s.fetchFlags.viol.getLsbD j =
      (s.viol.getLsbD j || (decide (s.pc.toNat % 2 = 1) && decide (j = 4)) ||
        (decide (0xFFE < s.pc.toNat) && decide (j = 3))) := by
  rw [State.fetchFlags, viol_bit_flagIf, viol_bit_flagIf]
  rfl

/-- The fetch changes nothing that a cause speaks of. -/
theorem execCause_fetchFlags {f : Violation} : ExecCause i s.fetchFlags f ↔ ExecCause i s f := by
  obtain ⟨b, e, -⟩ := s.fetchFlags_spec
  rw [e]
  cases f <;> rfl

theorem viol_bit_flagIf_mono {j : Nat} (c : Bool) (f : Violation) (hj : s.viol.getLsbD j = true) :
    (s.flagIf c f).viol.getLsbD j = true := by
  rw [viol_bit_flagIf, hj, Bool.true_or]

/-- No step clears a bit of `VIOL`, whatever the word (R33). -/
theorem step_viol_sticky (h : step s = .next t) {j : Nat} (hj : s.viol.getLsbD j = true) :
    t.viol.getLsbD j = true := by
  have hf : s.fetchFlags.viol.getLsbD j = true := viol_bit_flagIf_mono _ _ (viol_bit_flagIf_mono _ _ hj)
  obtain ⟨i, -, he⟩ | ⟨u, -, rfl⟩ := step_cases s h
  · obtain ⟨c, f, hv, -⟩ := exec_flagsWithCause he
    rw [hv]
    exact viol_bit_flagIf_mono c f hf
  · exact hf

/-- A bit that a recognised word newly sets is set by the fetch or by the instruction's `Flag`, which has its cause. -/
theorem step_viol_new (hd : decode s.fetchWord = .ok i) (h : step s = .next t) {j : Nat}
    (h0 : s.viol.getLsbD j = false) (h1 : t.viol.getLsbD j = true) :
    (∃ f, j = f.bit ∧ ExecCause i s f) ∨ (j = 3 ∧ 0xFFE < s.pc.toNat) ∨ (j = 4 ∧ s.pc.toNat % 2 = 1) := by
  have he : exec i s.fetchFlags = .next t := by simpa [step, hd] using h
  obtain ⟨c, f, hv, hc⟩ := exec_flagsWithCause he
  rw [hv, viol_bit_flagIf, viol_bit_fetchFlags, h0] at h1
  simp only [Bool.false_or, Bool.or_eq_true, Bool.and_eq_true, decide_eq_true_eq] at h1
  obtain (⟨hpc, hj⟩ | ⟨hpc, hj⟩) | ⟨hcf, hj⟩ := h1
  · exact .inr (.inr ⟨hj, hpc⟩)
  · exact .inr (.inl ⟨hj, hpc⟩)
  · exact .inl ⟨f, hj, execCause_fetchFlags.mp (hc hcf)⟩

/-- Settles O42: the bits stay set (`step_viol_sticky`), and a new one is the fetch's or has the cause of its `Flag`. -/
theorem violationBitsAreStickyAndHaveCauses : Obligations.ViolationBitsAreStickyAndHaveCauses := by
  intro s t i hd h
  refine ⟨fun j hj => step_viol_sticky h hj, fun j h0 h1 => ?_⟩
  obtain ⟨f, hj, hc⟩ | hpc | hpc := step_viol_new hd h h0 h1
  · cases f with
    | stackOverflow => exact .inl ⟨hj, hc⟩
    | stackUnderflow => exact .inr (.inl ⟨hj, hc⟩)
    | memOob => exact .inr (.inr (.inl ⟨hj, hc⟩))
    | pcOob => exact hc.elim
    | pcMisaligned => exact hc.elim
    | keyRange => exact .inr (.inr (.inr (.inr (.inr ⟨hj, hc⟩))))
  · exact .inr (.inr (.inr (.inl hpc)))
  · exact .inr (.inr (.inr (.inr (.inl hpc))))

end Sys2Proof.Machine
end

section
/-! The invariant of every step boundary (10_state.md R35): it holds at reset, and a step completes and keeps it. -/

namespace Sys2Proof.Machine

variable {s t : State} {i : Instr}

/-- Settles O53: the reset state lists no byte, and its `SP`, `VIOL` and accumulators are 0. -/
theorem resetMeetsTheInvariant : Obligations.ResetMeetsTheInvariant := by
  intro c
  have hinv : (State.resetWith c).Inv := ⟨Memory.wf_nil, Nat.zero_le 16, (by decide : (0#8).extractLsb' 6 2 = 0#2)⟩
  refine ⟨hinv, fun hc => ?_⟩
  obtain ⟨-, -, -, hcpu, htimer⟩ := hc
  exact ⟨hinv, htimer, hcpu⟩

/-- Settles O11: the two stops of `exec_call_illegal` and `exec_ret_illegal`. -/
theorem illegalStackPointerStopsCallAndReturn : Obligations.IllegalStackPointerStopsCallAndReturn :=
  fun nnn _ h => ⟨exec_call_illegal nnn h, exec_ret_illegal h⟩

/-! ### Completion (60_exceptions.md R160) -/

/-- With a legal `SP` every instruction answers a next state: only a call and a return have another answer at all. -/
theorem exec_completes (i : Instr) (s : State) (h : s.sp.toNat ≤ 16) : ∃ t, exec i s = .next t := by
  cases i with
  | call nnn =>
    rcases Nat.lt_or_eq_of_le h with hlt | heq
    · exact ⟨_, exec_call_push s nnn hlt⟩
    · exact ⟨_, exec_call_overflow s nnn (BitVec.eq_of_toNat_eq heq)⟩
  | ret =>
    by_cases h0 : s.sp = 0#8
    · exact ⟨_, exec_ret_underflow s h0⟩
    · exact ⟨_, exec_ret_pop s h0 (by omega)⟩
  | ldVxK x =>
    by_cases hk : s.keyChange = 0#16
    · exact ⟨_, exec_ldVxK_hold s x hk⟩
    · exact ⟨_, exec_ldVxK_key s x hk⟩
  | _ => exact ⟨_, rfl⟩

/-! ### `SP` stays in 0..16 -/

theorem exec_sp_le (h : exec i s = .next t) (hs : s.sp.toNat ≤ 16) : t.sp.toNat ≤ 16 := by
  by_cases hw : Part.sp ∈ writtenParts i
  · cases i with
    | call nnn =>
      obtain ⟨hlt, rfl⟩ | ⟨-, rfl⟩ := exec_call_cases h
      · simp only [State.setPc_sp, State.setSp_sp, BitVec.toNat_add, BitVec.toNat_ofNat]
        omega
      · exact hs
    | ret =>
      obtain ⟨hlt, h0, rfl⟩ | ⟨-, rfl⟩ := exec_ret_cases h
      · have hpos : s.sp.toNat ≠ 0 := fun e => h0 (BitVec.eq_of_toNat_eq e)
        simp only [State.setPc_sp, State.setSp_sp, BitVec.toNat_sub, BitVec.toNat_ofNat]
        omega
      · exact hs
    | _ => simp [writtenParts] at hw
  · have hsp : t.sp = s.sp := exec_keeps h hw
    rw [hsp]
    exact hs

/-! ### Memory stays canonical -/

/-- An instruction that stores nothing leaves the memory list itself alone, not only its reads. -/
theorem exec_mem_eq (h : exec i s = .next t) (hw : Part.mem ∉ writtenParts i) : t.mem = s.mem := by
  cases i with
  | ldB x | ldMemVx x => simp [writtenParts] at hw
  | call nnn => obtain ⟨_, rfl⟩ | ⟨-, rfl⟩ := exec_call_cases h <;> rfl
  | ret => obtain ⟨_, -, rfl⟩ | ⟨-, rfl⟩ := exec_ret_cases h <;> rfl
  | seImm x nn => rw [exec_seImm] at h; cases h; rfl
  | sneImm x nn => rw [exec_sneImm] at h; cases h; rfl
  | seReg x y => rw [exec_seReg] at h; cases h; rfl
  | sneReg x y => rw [exec_sneReg] at h; cases h; rfl
  | skp x => rw [exec_skp, State.keyPressed_eq] at h; cases h; rfl
  | sknp x => rw [exec_sknp, State.keyPressed_eq] at h; cases h; rfl
  | drw x y n =>
    obtain ⟨f, e⟩ := s.drawRows_spec ((s.reg x).toNat % 64) ((s.reg y).toNat % 32) n.toNat
    rw [exec_drw s x y n _ rfl, e] at h
    cases h
    rfl
  | ldVxMem x =>
    obtain ⟨vs, e, -⟩ := s.loadRegs_spec (x.toNat + 1) x.isLt
    rw [exec_ldVxMem, e] at h
    cases h
    rfl
  | ldVxK x =>
    by_cases hk : s.keyChange = 0#16
    · rw [exec_ldVxK_hold s x hk] at h; cases h; rfl
    · rw [exec_ldVxK_key s x hk] at h; cases h; rfl
  | _ => cases h; rfl

/-- Every instruction keeps memory canonical: the two that store do it by `memWrite` and `storeRegs` (R45). -/
theorem exec_mem_wf (h : exec i s = .next t) (hs : Memory.wf s.cfg.font s.mem = true) :
    Memory.wf t.cfg.font t.mem = true := by
  by_cases hw : Part.mem ∈ writtenParts i
  · cases i with
    | ldB x =>
      rw [exec_ldB] at h
      cases h
      exact State.wf_memWrite _ (State.wf_memWrite _ (State.wf_memWrite s hs _ _) _ _) _ _
    | ldMemVx x =>
      obtain ⟨m, e, -, hm⟩ := s.storeRegs_spec (x.toNat + 1) x.isLt
      rw [exec_ldMemVx, e] at h
      cases h
      obtain ⟨hwf, -⟩ := hm hs
      exact hwf
    | _ => simp [writtenParts] at hw
  · have hcfg : t.cfg = s.cfg := exec_keeps (p := .cfg) h (by cases i <;> simp [writtenParts])
    rw [hcfg, exec_mem_eq h hw]
    exact hs

/-! ### The step -/

theorem fetchFlags_inv (hs : s.Inv) : s.fetchFlags.Inv := by
  obtain ⟨hmem, hsp, hviol⟩ := hs
  obtain ⟨b, e, hb⟩ := s.fetchFlags_spec
  rw [e]
  exact ⟨hmem, hsp, hb.trans hviol⟩

/-- A step that answers keeps the invariant. -/
theorem step_inv (hs : s.Inv) (h : step s = .next t) : t.Inv := by
  obtain ⟨hmem, hsp, hviol⟩ := fetchFlags_inv hs
  obtain ⟨i, -, he⟩ | ⟨u, -, rfl⟩ := step_cases s h
  · exact ⟨exec_mem_wf he hmem, exec_sp_le he hsp, (exec_viol_reserved he).trans hviol⟩
  · exact ⟨hmem, hsp, hviol⟩

/-- With a legal `SP` every step answers a next state, whatever the word. -/
theorem step_completes (h : s.sp.toNat ≤ 16) : ∃ t, step s = .next t := by
  unfold step
  split
  · obtain ⟨b, e, -⟩ := s.fetchFlags_spec
    exact exec_completes _ _ (e ▸ h)
  · exact ⟨_, rfl⟩

/-- Settles O54: a step completes (`step_completes`), and what it answers meets the invariant (`step_inv`). -/
theorem stepNeverStopsAndKeepsTheInvariant : Obligations.StepNeverStopsAndKeepsTheInvariant := by
  intro s hs
  have ⟨_, hsp, _⟩ := hs
  obtain ⟨t, ht⟩ := step_completes hsp
  exact ⟨t, ht, step_inv hs ht⟩

end Sys2Proof.Machine
end

section
/-! The scheduler and the host's transactions (60_exceptions.md R169 to R171, R175; 70_reset_and_hazards.md R190): what a
step leaves to the scheduler, what the two loops keep, and that every transaction completes. -/

namespace Sys2Proof.Machine

variable {s t : State}

theorem keepsExcept_setAccT (s : State) (n : Nat) : KeepsExcept [.accT] s (s.setAccT n) := by
  intro p hp; cases p <;> simp_all [Part.same]

theorem keepsExcept_setAccC (s : State) (n : Nat) : KeepsExcept [.accC] s (s.setAccC n) := by
  intro p hp; cases p <;> simp_all [Part.same]

/-! ### What no step writes -/

/-- The parts that belong to the host and the scheduler: no instruction names one. -/
def schedulerParts : List Part := [.keypad, .keypadPrev, .accT, .accC, .cfg]

theorem schedulerParts_not_written (i : Instr) : ∀ p ∈ schedulerParts, p ∉ writtenParts i := by
  cases i <;> simp [schedulerParts, writtenParts]

/-- No step, whatever the word, changes a part of the scheduler's (R15, R171). -/
theorem step_keeps_schedulerParts {p : Part} (hp : p ∈ schedulerParts) (h : step s = .next t) : p.same s t := by
  have hviol : p ≠ .viol := ne_of_mem_of_not_mem hp (by decide)
  have hpc : p ≠ .pc := ne_of_mem_of_not_mem hp (by decide)
  have hf : p.same s s.fetchFlags := keepsExcept_fetchFlags s p (mt List.mem_singleton.mp hviol)
  obtain ⟨i, -, he⟩ | ⟨u, -, rfl⟩ := step_cases s h
  · exact Part.same_trans hf (exec_keeps he (schedulerParts_not_written i p hp))
  · exact Part.same_trans hf (keepsExcept_setPc _ _ p (mt List.mem_singleton.mp hpc))

/-! ### One round of the CPU loop -/

/-- One round of the CPU loop: a step, the snapshot, and one period taken off `ACC_C` (R169, R171). -/
theorem cpuLoop_succ_cases {n : Nat} (h : cpuLoop (n + 1) s = .next t) :
    (s.cfg.cpuPeriodQ ≤ s.accC ∧ ∃ u, step s = .next u ∧
      cpuLoop n (u.snapshot.setAccC (u.accC - u.cfg.cpuPeriodQ)) = .next t) ∨
    (s.accC < s.cfg.cpuPeriodQ ∧ t = s) := by
  unfold cpuLoop at h
  split at h
  · rename_i hdue
    split at h
    · rename_i c hc
      obtain ⟨u, hu, rfl⟩ := cpuCycle_cases hc
      exact .inl ⟨hdue, u, hu, h⟩
    · cases h
    · cases h
  · exact .inr ⟨by omega, (Host.Outcome.next.inj h).symm⟩

theorem cpuLoop_succ_due {n : Nat} (hdue : s.cfg.cpuPeriodQ ≤ s.accC) (h : step s = .next t) :
    cpuLoop (n + 1) s = cpuLoop n (t.snapshot.setAccC (t.accC - t.cfg.cpuPeriodQ)) := by
  simp only [cpuLoop, if_pos hdue, cpuCycle_of_step h, State.snapshot_accC, State.snapshot_cfg]

theorem cpuLoop_not_due (fuel : Nat) (h : s.accC < s.cfg.cpuPeriodQ) : cpuLoop fuel s = .next s := by
  cases fuel with
  | zero => rfl
  | succ n => simp only [cpuLoop, if_neg (Nat.not_le.mpr h)]

/-! ### The CPU loop keeps the invariant and completes -/

/-- With enough fuel the CPU loop completes, keeps the invariant, and leaves `ACC_C` below its period (R169). -/
theorem cpuLoop_completes (fuel : Nat) (s : State) (hs : s.Inv) (hp : 0 < s.cfg.cpuPeriodQ) (hf : s.accC ≤ fuel) :
    ∃ t, cpuLoop fuel s = .next t ∧ t.Inv ∧ t.accC < s.cfg.cpuPeriodQ ∧ t.accT = s.accT ∧ t.cfg = s.cfg := by
  induction fuel generalizing s with
  | zero => exact ⟨s, rfl, hs, by omega, rfl, rfl⟩
  | succ n ih =>
    by_cases hdue : s.cfg.cpuPeriodQ ≤ s.accC
    · obtain ⟨u, hu, hui⟩ := stepNeverStopsAndKeepsTheInvariant s hs
      have hcfg : u.cfg = s.cfg := step_keeps_schedulerParts (p := .cfg) (by decide) hu
      have hC : u.accC = s.accC := step_keeps_schedulerParts (p := .accC) (by decide) hu
      have hT : u.accT = s.accT := step_keeps_schedulerParts (p := .accT) (by decide) hu
      have hn : u.accC - u.cfg.cpuPeriodQ ≤ n := by rw [hcfg]; omega
      obtain ⟨t, ht, hti, htC, htT, htcfg⟩ :=
        ih (u.snapshot.setAccC (u.accC - u.cfg.cpuPeriodQ)) hui (by rw [← hcfg] at hp; exact hp) hn
      exact ⟨t, (cpuLoop_succ_due hdue hu).trans ht, hti, hcfg ▸ htC, htT.trans hT, htcfg.trans hcfg⟩
    · exact ⟨s, cpuLoop_not_due _ (by omega), hs, by omega, rfl, rfl⟩

/-! ### The timer loop -/

/-- The timer loop leaves the memory list itself alone. -/
theorem timerLoop_mem (fuel : Nat) (s : State) : (timerLoop fuel s).mem = s.mem := by
  induction fuel generalizing s with
  | zero => rfl
  | succ n ih =>
    unfold timerLoop
    split
    · exact ih _
    · rfl

theorem timerLoop_inv (fuel : Nat) (hs : s.Inv) : (timerLoop fuel s).Inv := by
  have hcfg : (timerLoop fuel s).cfg = s.cfg := timerLoop_keeps fuel s .cfg (by decide)
  have hsp : (timerLoop fuel s).sp = s.sp := timerLoop_keeps fuel s .sp (by decide)
  have hviol : (timerLoop fuel s).viol = s.viol := timerLoop_keeps fuel s .viol (by decide)
  rw [State.Inv, hcfg, hsp, hviol, timerLoop_mem]
  exact hs

/-! ### ADVANCE: the due ticks, then the CPU loop -/

/-- The state ADVANCE(q) hands to the CPU loop: `q` credited to both accumulators and the due ticks done (R169, R170). -/
def ticked (q : Nat) (s : State) : State :=
  timerLoop (s.accT + q) ((s.setAccT (s.accT + q)).setAccC (s.accC + q))

/-- The credit and the ticks change the timers and the accumulators only. -/
theorem ticked_keeps {p : Part} (q : Nat) (s : State) (hp : p ∉ [Part.dt, .st, .accT, .accC]) :
    p.same s (ticked q s) :=
  (((keepsExcept_setAccT s (s.accT + q)).mono (by simp)).trans
    (((keepsExcept_setAccC _ (s.accC + q)).mono (by simp)).trans ((timerLoop_keeps _ _).mono (by simp)))) p hp

theorem ticked_accC (q : Nat) (s : State) : (ticked q s).accC = s.accC + q :=
  timerLoop_keeps _ _ .accC (by decide)

theorem ticked_accT (q : Nat) (s : State) (hp : 0 < s.cfg.timerPeriodQ) :
    (ticked q s).accT = (s.accT + q) % s.cfg.timerPeriodQ :=
  timerLoop_accT _ _ hp (Nat.le_refl _)

theorem ticked_inv (q : Nat) (hs : s.Inv) : (ticked q s).Inv := timerLoop_inv _ hs

theorem advance_eq_cpuLoop (q : Nat) (s : State) : advance q s = cpuLoop (s.accC + q) (ticked q s) := by
  rw [← ticked_accC q s]
  rfl

/-! ### Every transaction completes between transactions -/

theorem advance_completes (q : Nat) (hc : s.cfg.wf) (hs : s.Inv) :
    ∃ t, advance q s = .next t ∧ t.BetweenTransactions ∧ t.cfg = s.cfg := by
  obtain ⟨-, -, -, hcpu, htimer⟩ := hc
  have hcfg : (ticked q s).cfg = s.cfg := ticked_keeps (p := .cfg) q s (by decide)
  obtain ⟨t, ht, hti, htC, htT, htcfg⟩ :=
    cpuLoop_completes (s.accC + q) (ticked q s) (ticked_inv q hs) (hcfg ▸ hcpu) (ticked_accC q s).le
  have hcfg' : t.cfg = s.cfg := htcfg.trans hcfg
  refine ⟨t, (advance_eq_cpuLoop q s).trans ht, ⟨hti, ?_, ?_⟩, hcfg'⟩
  · rw [htT, ticked_accT q s htimer, hcfg']
    exact Nat.mod_lt _ htimer
  · rw [hcfg', ← hcfg]
    exact htC

/-- RESET ends between transactions: the count of draws is no part of the invariant. -/
theorem hostReset_between (hc : s.cfg.wf) : (hostReset s).BetweenTransactions := by
  obtain ⟨-, hreset⟩ := resetMeetsTheInvariant s.cfg
  exact hreset hc

/-- LOAD of an image that fits ends between transactions: the image ends inside memory (R191). -/
theorem installImage_between {bytes : List Byte} (hc : s.cfg.wf) (hfit : bytes.length ≤ imageLimit s.cfg) :
    (installImage bytes s).BetweenTransactions := by
  obtain ⟨⟨hmem, hrest⟩, hacc⟩ := hostReset_between hc
  obtain ⟨-, -, hoff, -⟩ := hc
  have hend : s.cfg.loadOffset.toNat + bytes.length ≤ 4096 := by
    unfold imageLimit at hfit
    omega
  exact ⟨⟨Memory.wf_copyIn hmem bytes _ hend, hrest⟩, hacc⟩

/-- Settles O55, by cases on the transaction: only RESET, LOAD and ADVANCE change what the invariant speaks of. -/
theorem transactionsCompleteAndKeepTheInvariant : Obligations.TransactionsCompleteAndKeepTheInvariant := by
  intro tr s hc hs
  cases tr with
  | reset => exact ⟨_, _, rfl, hostReset_between hc, rfl⟩
  | load bytes =>
    by_cases hfit : bytes.length ≤ imageLimit s.cfg
    · exact ⟨_, _, if_pos hfit, installImage_between hc hfit, rfl⟩
    · exact ⟨_, _, if_neg hfit, hostReset_between hc, rfl⟩
  | advance q =>
    have ⟨hinv, _⟩ := hs
    obtain ⟨t, ht, htb, htcfg⟩ := advance_completes q hc hinv
    exact ⟨t, .none, by simp only [transact, ht], htb, htcfg⟩
  | keypadWrite k => exact ⟨_, _, rfl, hs, rfl⟩
  | readFb => exact ⟨_, _, rfl, hs, rfl⟩
  | readTimers => exact ⟨_, _, rfl, hs, rfl⟩
  | readViol => exact ⟨_, _, rfl, hs, rfl⟩

/-! ### What ADVANCE does to the keypad, its snapshot, the parameters and `VIOL` -/

/-- From `s` to `t` the keypad and the parameters stay, and no bit of `VIOL` is cleared. -/
def KeepsKeypadAndViolations (s t : State) : Prop :=
  t.keypad = s.keypad ∧ t.cfg = s.cfg ∧ ∀ j, s.viol.getLsbD j = true → t.viol.getLsbD j = true

theorem KeepsKeypadAndViolations.trans {u : State} (h : KeepsKeypadAndViolations s t)
    (h' : KeepsKeypadAndViolations t u) : KeepsKeypadAndViolations s u := by
  obtain ⟨hk, hc, hv⟩ := h
  obtain ⟨hk', hc', hv'⟩ := h'
  exact ⟨hk'.trans hk, hc'.trans hc, fun j hj => hv' j (hv j hj)⟩

theorem KeepsKeypadAndViolations.refl (s : State) : KeepsKeypadAndViolations s s := ⟨rfl, rfl, fun _ => id⟩

theorem step_keepsKeypadAndViolations (h : step s = .next t) : KeepsKeypadAndViolations s t :=
  ⟨step_keeps_schedulerParts (p := .keypad) (by decide) h, step_keeps_schedulerParts (p := .cfg) (by decide) h,
    fun _ hj => step_viol_sticky h hj⟩

theorem ticked_keepsKeypadAndViolations (q : Nat) (s : State) : KeepsKeypadAndViolations s (ticked q s) := by
  have hv : (ticked q s).viol = s.viol := ticked_keeps (p := .viol) q s (by decide)
  exact ⟨ticked_keeps (p := .keypad) q s (by decide), ticked_keeps (p := .cfg) q s (by decide),
    fun j hj => by rw [hv]; exact hj⟩

theorem cpuLoop_keepsKeypadAndViolations {fuel : Nat} (h : cpuLoop fuel s = .next t) :
    KeepsKeypadAndViolations s t := by
  induction fuel generalizing s with
  | zero => cases h; exact .refl _
  | succ n ih =>
    obtain ⟨-, u, hu, hloop⟩ | ⟨-, rfl⟩ := cpuLoop_succ_cases h
    · have hround : KeepsKeypadAndViolations s (u.snapshot.setAccC (u.accC - u.cfg.cpuPeriodQ)) :=
        (step_keepsKeypadAndViolations hu :)
      exact hround.trans (ih hloop)
    · exact .refl _

/-- Once the snapshot is the keypad, the loop leaves it so: each further step takes it again (R171). -/
theorem cpuLoop_snapshot_stays {fuel : Nat} (hs : s.keypadPrev = s.keypad) (h : cpuLoop fuel s = .next t) :
    t.keypadPrev = s.keypad := by
  induction fuel generalizing s with
  | zero => cases h; exact hs
  | succ n ih =>
    obtain ⟨-, u, hu, hloop⟩ | ⟨-, rfl⟩ := cpuLoop_succ_cases h
    · have hk : u.keypad = s.keypad := step_keeps_schedulerParts (p := .keypad) (by decide) hu
      exact (ih rfl hloop).trans hk
    · exact hs

/-- A loop in which a step is due ends with the keypad in the snapshot. -/
theorem cpuLoop_snapshot_due {n : Nat} (hdue : s.cfg.cpuPeriodQ ≤ s.accC) (h : cpuLoop (n + 1) s = .next t) :
    t.keypadPrev = s.keypad := by
  obtain ⟨-, u, hu, hloop⟩ | ⟨hlt, -⟩ := cpuLoop_succ_cases h
  · have hk : u.keypad = s.keypad := step_keeps_schedulerParts (p := .keypad) (by decide) hu
    exact (cpuLoop_snapshot_stays rfl hloop).trans hk
  · omega

/-- Settles O58: ADVANCE is the due ticks and then the CPU loop, which takes a snapshot in each round and only there. -/
theorem advanceKeepsKeypadAndViolations : Obligations.AdvanceKeepsKeypadAndViolations := by
  intro q s t hc h
  obtain ⟨-, -, -, hcpu, -⟩ := hc
  rw [advance_eq_cpuLoop] at h
  have hticked := ticked_keepsKeypadAndViolations q s
  obtain ⟨hkeypad, hcfg, hviol⟩ := hticked.trans (cpuLoop_keepsKeypadAndViolations h)
  obtain ⟨hkey, hcfg', -⟩ := hticked
  refine ⟨hkeypad, hcfg, hviol, fun hdue => ?_, fun hnot => ?_⟩
  · obtain ⟨n, hn⟩ : ∃ n, s.accC + q = n + 1 := ⟨s.accC + q - 1, by omega⟩
    rw [hn] at h
    exact (cpuLoop_snapshot_due (by rw [hcfg', ticked_accC]; exact hdue) h).trans hkey
  · rw [cpuLoop_not_due _ (by rw [hcfg', ticked_accC]; exact hnot)] at h
    cases h
    exact ticked_keeps (p := .keypadPrev) q s (by decide)

/-! ### The values after RESET -/

/-- Settles O46: every field is the constant of the table, and memory lists nothing, so that it reads as the font and 0. -/
theorem resetValues : Obligations.ResetValues := by
  intro s
  refine ⟨hostReset s, rfl, fun a h => dif_pos h, fun a h _ => dif_neg (Nat.not_lt.mpr h), fun x => ?_, rfl, rfl, rfl,
    fun j h => ?_, rfl, rfl, rfl, rfl, fun n h => ?_, rfl, rfl, rfl⟩
  · exact State.resetWith_reg s.cfg x
  · exact Vector.getElem_replicate h
  · exact Vector.getElem_replicate h

end Sys2Proof.Machine
end

section
/-! Who changes `VF` (10_state.md R22). -/

namespace Sys2Proof.Machine

variable {s t : State} {i : Instr}

/-- An instruction that ends by writing one register and changes `VF` has written `VF`. -/
theorem eq_vf_of_exec_setReg {u : State} {x : Nibble} {b : Byte} {a : Word}
    (e : exec i s = .next ((u.setReg x b).setPc a)) (hu : u.reg vf = s.reg vf) (h : exec i s = .next t)
    (hne : t.reg vf ≠ s.reg vf) : x = vf := by
  rw [e] at h
  cases h
  by_contra hx
  exact hne ((State.setReg_reg_other u x b vf (Ne.symm hx)).trans hu)

theorem eq_vf_of_exec_ldVxK {x : Nibble} (h : exec (.ldVxK x) s = .next t) (hne : t.reg vf ≠ s.reg vf) : x = vf := by
  by_cases hk : s.keyChange = 0#16
  · rw [exec_ldVxK_hold s x hk] at h
    cases h
    exact absurd rfl hne
  · exact eq_vf_of_exec_setReg (exec_ldVxK_key s x hk) rfl h hne

/-- `FX65` reaches `VF` only when it loads all sixteen registers. -/
theorem eq_vf_of_exec_ldVxMem {x : Nibble} (h : exec (.ldVxMem x) s = .next t) (hne : t.reg vf ≠ s.reg vf) :
    x = vf := by
  obtain ⟨vs, e, hvs⟩ := s.loadRegs_spec (x.toNat + 1) x.isLt
  rw [exec_ldVxMem, e] at h
  cases h
  by_contra hx
  have hlt : ¬ vf.toNat < x.toNat + 1 := fun hle =>
    hx (BitVec.eq_of_toNat_eq (Nat.le_antisymm (Nat.le_of_lt_succ x.isLt) (Nat.le_of_lt_succ hle)))
  exact hne ((hvs vf).trans (if_neg hlt))

/-- Settles O41: an instruction whose rule names no register keeps them all; of the others, the flag writers are allowed, and
each of the rest writes one register as data, or loads the registers up to `X`. -/
theorem vfChangesOnlyByItsNamedWriters : Obligations.VfChangesOnlyByItsNamedWriters := by
  intro i s t h hne
  have hregs : Part.regs ∈ writtenParts i := by
    by_contra hw
    have hkept : ∀ x, t.reg x = s.reg x := exec_keeps h hw
    exact hne (hkept vf)
  cases i with
  | addReg x y | subReg x y | shr x y | subnReg x y | shl x y | drw x y n => trivial
  | ldImm x nn => exact eq_vf_of_exec_setReg (exec_ldImm s x nn) rfl h hne
  | addImm x nn => exact eq_vf_of_exec_setReg (exec_addImm s x nn) rfl h hne
  | ldReg x y => exact eq_vf_of_exec_setReg (exec_ldReg s x y) rfl h hne
  | orReg x y => exact eq_vf_of_exec_setReg (exec_orReg s x y) rfl h hne
  | andReg x y => exact eq_vf_of_exec_setReg (exec_andReg s x y) rfl h hne
  | xorReg x y => exact eq_vf_of_exec_setReg (exec_xorReg s x y) rfl h hne
  | rnd x nn => exact eq_vf_of_exec_setReg (exec_rnd s x nn) rfl h hne
  | ldVxDt x => exact eq_vf_of_exec_setReg (exec_ldVxDt s x) rfl h hne
  | ldVxK x => exact eq_vf_of_exec_ldVxK h hne
  | ldVxMem x => exact eq_vf_of_exec_ldVxMem h hne
  | _ => simp [writtenParts] at hregs

end Sys2Proof.Machine
end

section
/-! What no instruction reads (10_state.md R28, R30, R32, R33): two states that agree but for hidden parts run every
instruction to two states that agree but for them, since each operation carries the agreement on. -/

namespace Sys2Proof.Machine

/-- The parts whose value steers no instruction: the sound timer, the accumulators, `VIOL`, and, but for `FX0A`, the
snapshot of the keypad. -/
def hiddenParts : List Part := [.st, .accT, .accC, .viol, .keypadPrev]

/-- `s'` holds the same memory list as `s` and differs from it in the parts `ps` at most, all of them hidden. -/
structure AgreeBut (ps : List Part) (s s' : State) : Prop where
  hidden : ∀ p ∈ ps, p ∈ hiddenParts
  mem : s'.mem = s.mem
  keeps : KeepsExcept ps s s'

theorem Part.same_symm {p : Part} {s t : State} (h : p.same s t) : p.same t s := by
  cases p
  case mem => exact fun a => (h a).symm
  case regs => exact fun x => (h x).symm
  all_goals exact Eq.symm h

namespace AgreeBut

variable {ps : List Part} {s s' : State}

/-! ### What two states that agree both hold -/

theorem same_of_visible (h : AgreeBut ps s s') {p : Part} (hp : p ∉ hiddenParts) : p.same s s' :=
  h.keeps p fun hmem => hp (h.hidden p hmem)

theorem reg (h : AgreeBut ps s s') (x : Nibble) : s'.reg x = s.reg x := h.same_of_visible (p := .regs) (by decide) x
theorem i (h : AgreeBut ps s s') : s'.i = s.i := h.same_of_visible (p := .i) (by decide)
theorem pc (h : AgreeBut ps s s') : s'.pc = s.pc := h.same_of_visible (p := .pc) (by decide)
theorem stack (h : AgreeBut ps s s') : s'.stack = s.stack := h.same_of_visible (p := .stack) (by decide)
theorem sp (h : AgreeBut ps s s') : s'.sp = s.sp := h.same_of_visible (p := .sp) (by decide)
theorem dt (h : AgreeBut ps s s') : s'.dt = s.dt := h.same_of_visible (p := .dt) (by decide)
theorem keypad (h : AgreeBut ps s s') : s'.keypad = s.keypad := h.same_of_visible (p := .keypad) (by decide)
theorem fb (h : AgreeBut ps s s') : s'.fb = s.fb := h.same_of_visible (p := .fb) (by decide)
theorem draws (h : AgreeBut ps s s') : s'.draws = s.draws := h.same_of_visible (p := .draws) (by decide)
theorem cfg (h : AgreeBut ps s s') : s'.cfg = s.cfg := h.same_of_visible (p := .cfg) (by decide)

theorem effAddr (h : AgreeBut ps s s') (k : Nat) : s'.effAddr k = s.effAddr k := by
  rw [State.effAddr, h.i]; rfl

theorem byteAt (h : AgreeBut ps s s') (a : Nat) : s'.byteAt a = s.byteAt a :=
  h.same_of_visible (p := .mem) (by decide) a

/-! ### The operations -/

/-- Writing one part alike in both states carries the agreement on; a part they may differ in may be written unlike. -/
theorem of_write {p : Part} {u u' : State} (h : AgreeBut ps s s') (hu : KeepsExcept [p] s u)
    (hu' : KeepsExcept [p] s' u') (hmem : u'.mem = u.mem) (hp : p ∉ ps → p.same u u') : AgreeBut ps u u' := by
  refine ⟨h.hidden, hmem, fun q hq => ?_⟩
  by_cases e : q = p
  · subst e
    exact hp hq
  · have hqp : q ∉ [p] := mt List.mem_singleton.mp e
    exact Part.same_trans (Part.same_symm (hu q hqp)) (Part.same_trans (h.keeps q hq) (hu' q hqp))

theorem setReg (h : AgreeBut ps s s') (x : Nibble) (b : Byte) : AgreeBut ps (s.setReg x b) (s'.setReg x b) :=
  h.of_write (keepsExcept_setReg s x b) (keepsExcept_setReg s' x b) h.mem fun _ y => by
    rw [State.setReg_reg, State.setReg_reg, h.reg]

theorem setI (h : AgreeBut ps s s') (a : Word) : AgreeBut ps (s.setI a) (s'.setI a) :=
  h.of_write (keepsExcept_setI s a) (keepsExcept_setI s' a) h.mem fun _ => rfl

theorem setPc (h : AgreeBut ps s s') (a : Word) : AgreeBut ps (s.setPc a) (s'.setPc a) :=
  h.of_write (keepsExcept_setPc s a) (keepsExcept_setPc s' a) h.mem fun _ => rfl

theorem setSp (h : AgreeBut ps s s') (n : Byte) : AgreeBut ps (s.setSp n) (s'.setSp n) :=
  h.of_write (keepsExcept_setSp s n) (keepsExcept_setSp s' n) h.mem fun _ => rfl

theorem setStack (h : AgreeBut ps s s') (st : Vector Word 16) : AgreeBut ps (s.setStack st) (s'.setStack st) :=
  h.of_write (keepsExcept_setStack s st) (keepsExcept_setStack s' st) h.mem fun _ => rfl

theorem setDt (h : AgreeBut ps s s') (b : Byte) : AgreeBut ps (s.setDt b) (s'.setDt b) :=
  h.of_write (keepsExcept_setDt s b) (keepsExcept_setDt s' b) h.mem fun _ => rfl

theorem setSt (h : AgreeBut ps s s') (b : Byte) : AgreeBut ps (s.setSt b) (s'.setSt b) :=
  h.of_write (keepsExcept_setSt s b) (keepsExcept_setSt s' b) h.mem fun _ => rfl

theorem setFb (h : AgreeBut ps s s') (f : Framebuffer) : AgreeBut ps (s.setFb f) (s'.setFb f) :=
  h.of_write (keepsExcept_setFb s f) (keepsExcept_setFb s' f) h.mem fun _ => rfl

theorem setDraws (h : AgreeBut ps s s') (n : Nat) : AgreeBut ps (s.setDraws n) (s'.setDraws n) :=
  h.of_write (keepsExcept_setDraws s n) (keepsExcept_setDraws s' n) h.mem fun _ => rfl

theorem setMem (h : AgreeBut ps s s') (m : List Host.Cell) : AgreeBut ps (s.setMem m) (s'.setMem m) :=
  h.of_write (keepsExcept_setMem s m) (keepsExcept_setMem s' m) rfl fun _ a => by
    simp only [State.byteAt, State.setMem_cfg, State.setMem_mem, h.cfg]

theorem flag (h : AgreeBut ps s s') (f : Violation) : AgreeBut ps (s.flag f) (s'.flag f) :=
  h.of_write (keepsExcept_setViol s _) (keepsExcept_setViol s' _) h.mem fun hv => by
    have hviol : s'.viol = s.viol := h.keeps .viol hv
    simp only [Part.same, State.flag, State.setViol_viol, hviol]

theorem flagIf (h : AgreeBut ps s s') (c : Bool) (f : Violation) : AgreeBut ps (s.flagIf c f) (s'.flagIf c f) := by
  cases c
  · exact h
  · exact h.flag f

theorem memWrite (h : AgreeBut ps s s') (a : Nat) (b : Byte) : AgreeBut ps (s.memWrite a b) (s'.memWrite a b) := by
  have hf := h.flagIf (decide (4096 ≤ a)) .memOob
  simp only [State.memWrite, State.putByte, hf.cfg, hf.mem]
  exact hf.setMem _

theorem memRead_fst (h : AgreeBut ps s s') (a : Nat) : (s'.memRead a).1 = (s.memRead a).1 := h.byteAt _

theorem memRead_snd (h : AgreeBut ps s s') (a : Nat) : AgreeBut ps (s.memRead a).2 (s'.memRead a).2 := h.flagIf _ _

theorem storeRegs (h : AgreeBut ps s s') (n : Nat) : AgreeBut ps (s.storeRegs n) (s'.storeRegs n) := by
  induction n with
  | zero => exact h
  | succ k ih =>
    simp only [State.storeRegs, ih.effAddr, ih.reg]
    exact ih.memWrite _ _

theorem loadRegs (h : AgreeBut ps s s') (n : Nat) : AgreeBut ps (s.loadRegs n) (s'.loadRegs n) := by
  induction n with
  | zero => exact h
  | succ k ih =>
    simp only [State.loadRegs, ih.effAddr, ih.memRead_fst]
    exact (ih.memRead_snd _).setReg _ _

/-- Drawing meets the same collisions in both states, and ends in states that agree. -/
theorem drawRows (h : AgreeBut ps s s') (x0 y0 n : Nat) :
    (s'.drawRows x0 y0 n).2 = (s.drawRows x0 y0 n).2 ∧
      AgreeBut ps (s.drawRows x0 y0 n).1 (s'.drawRows x0 y0 n).1 := by
  induction n with
  | zero => exact ⟨rfl, h⟩
  | succ r ih =>
    obtain ⟨hhit, hst⟩ := ih
    simp only [State.drawRows, hst.effAddr, hst.memRead_fst, (hst.memRead_snd _).fb, hhit]
    exact ⟨trivial, (hst.memRead_snd _).setFb _⟩

theorem keyPressed_fst (h : AgreeBut ps s s') (k : Byte) : (s'.keyPressed k).1 = (s.keyPressed k).1 := by
  rw [State.keyPressed_eq, State.keyPressed_eq, h.keypad]

theorem keyPressed_snd (h : AgreeBut ps s s') (k : Byte) : AgreeBut ps (s.keyPressed k).2 (s'.keyPressed k).2 := by
  unfold State.keyPressed
  split
  · exact h
  · exact h.flag .keyRange

end AgreeBut

/-! ### The instructions -/

/-- Where `r` is a next state, `r'` is one that agrees with it but for `ps`. -/
def SameOutcomeBut (ps : List Part) (r r' : Result) : Prop :=
  ∀ t, r = .next t → ∃ t', r' = .next t' ∧ AgreeBut ps t t'

section
variable {ps : List Part} {s s' : State}

theorem sameOutcomeBut_next (h : AgreeBut ps s s') : SameOutcomeBut ps (.next s) (.next s') := by
  intro t ht
  cases ht
  exact ⟨s', rfl, h⟩

/-- The two states take the same way through a call, since they hold the same `SP`. -/
theorem exec_call_agree (h : AgreeBut ps s s') (nnn : Addr12) :
    SameOutcomeBut ps (exec (.call nnn) s) (exec (.call nnn) s') := by
  rcases Nat.lt_trichotomy s.sp.toNat 16 with hlt | heq | hgt
  · have hlt' : s'.sp.toNat < 16 := h.sp.symm ▸ hlt
    rw [exec_call_push s nnn hlt, exec_call_push s' nnn hlt']
    simp only [h.sp, h.stack, h.pc]
    exact sameOutcomeBut_next (((h.setStack _).setSp _).setPc _)
  · have hsp : s.sp = 16#8 := BitVec.eq_of_toNat_eq heq
    rw [exec_call_overflow s nnn hsp, exec_call_overflow s' nnn (h.sp.trans hsp), h.pc]
    exact sameOutcomeBut_next ((h.flag .stackOverflow).setPc _)
  · rw [exec_call_illegal nnn hgt]
    intro t ht
    cases ht

/-- The two states take the same way through a return, since they hold the same `SP`. -/
theorem exec_ret_agree (h : AgreeBut ps s s') : SameOutcomeBut ps (exec .ret s) (exec .ret s') := by
  by_cases h0 : s.sp = 0#8
  · rw [exec_ret_underflow s h0, exec_ret_underflow s' (h.sp.trans h0), h.pc]
    exact sameOutcomeBut_next ((h.flag .stackUnderflow).setPc _)
  · rcases Nat.lt_or_ge 16 s.sp.toNat with hgt | hle
    · rw [exec_ret_illegal hgt]
      intro t ht
      cases ht
    · have hlt : s.sp.toNat - 1 < 16 := by omega
      have hlt' : s'.sp.toNat - 1 < 16 := h.sp.symm ▸ hlt
      rw [exec_ret_pop s h0 hlt, exec_ret_pop s' (h.sp.symm ▸ h0) hlt']
      simp only [h.sp, h.stack]
      exact sameOutcomeBut_next ((h.setSp _).setPc _)

/-- `FX0A` reads the snapshot, so it needs the two states to hold the same one. -/
theorem exec_ldVxK_agree (h : AgreeBut ps s s') (hprev : Part.keypadPrev ∉ ps) (x : Nibble) :
    SameOutcomeBut ps (exec (.ldVxK x) s) (exec (.ldVxK x) s') := by
  have hsnap : s'.keypadPrev = s.keypadPrev := h.keeps .keypadPrev hprev
  have hchange : s'.keyChange = s.keyChange := by rw [State.keyChange, h.keypad, hsnap]; rfl
  by_cases hk : s.keyChange = 0#16
  · rw [exec_ldVxK_hold s x hk, exec_ldVxK_hold s' x (hchange.trans hk)]
    exact sameOutcomeBut_next h
  · rw [exec_ldVxK_key s x hk, exec_ldVxK_key s' x (hchange ▸ hk), hchange, h.pc]
    exact sameOutcomeBut_next ((h.setReg x _).setPc _)

/-- Every instruction carries the agreement on: what it reads is what the two states share. -/
theorem exec_agree (i : Instr) (h : AgreeBut ps s s') (hi : (∀ x, i ≠ .ldVxK x) ∨ Part.keypadPrev ∉ ps) :
    SameOutcomeBut ps (exec i s) (exec i s') := by
  cases i with
  -- control
  | sys nnn => simp only [exec_sys, h.pc]; exact sameOutcomeBut_next (h.setPc _)
  | ret => exact exec_ret_agree h
  | jp nnn => exact sameOutcomeBut_next (h.setPc _)
  | call nnn => exact exec_call_agree h nnn
  | jpV0 nnn => simp only [exec_jpV0, h.reg]; exact sameOutcomeBut_next (h.setPc _)
  -- skips
  | seImm x nn => simp only [exec_seImm, h.pc, h.reg]; exact sameOutcomeBut_next (h.setPc _)
  | sneImm x nn => simp only [exec_sneImm, h.pc, h.reg]; exact sameOutcomeBut_next (h.setPc _)
  | seReg x y => simp only [exec_seReg, h.pc, h.reg]; exact sameOutcomeBut_next (h.setPc _)
  | sneReg x y => simp only [exec_sneReg, h.pc, h.reg]; exact sameOutcomeBut_next (h.setPc _)
  | skp x =>
    simp only [exec_skp, h.pc, h.reg, h.keyPressed_fst]
    exact sameOutcomeBut_next ((h.keyPressed_snd _).setPc _)
  | sknp x =>
    simp only [exec_sknp, h.pc, h.reg, h.keyPressed_fst]
    exact sameOutcomeBut_next ((h.keyPressed_snd _).setPc _)
  -- register loads and the ALU
  | ldImm x nn => simp only [exec_ldImm, h.pc]; exact sameOutcomeBut_next ((h.setReg x _).setPc _)
  | addImm x nn => simp only [exec_addImm, h.pc, h.reg]; exact sameOutcomeBut_next ((h.setReg x _).setPc _)
  | ldReg x y => simp only [exec_ldReg, h.pc, h.reg]; exact sameOutcomeBut_next ((h.setReg x _).setPc _)
  | orReg x y => simp only [exec_orReg, h.pc, h.reg]; exact sameOutcomeBut_next ((h.setReg x _).setPc _)
  | andReg x y => simp only [exec_andReg, h.pc, h.reg]; exact sameOutcomeBut_next ((h.setReg x _).setPc _)
  | xorReg x y => simp only [exec_xorReg, h.pc, h.reg]; exact sameOutcomeBut_next ((h.setReg x _).setPc _)
  | addReg x y =>
    simp only [exec_addReg, h.pc, h.reg]
    exact sameOutcomeBut_next (((h.setReg x _).setReg vf _).setPc _)
  | subReg x y =>
    simp only [exec_subReg _ x y _ rfl, h.pc, h.reg, (h.setReg vf _).reg]
    exact sameOutcomeBut_next (((h.setReg vf _).setReg x _).setPc _)
  | shr x y =>
    simp only [exec_shr _ x y _ rfl, h.pc, h.reg, (h.setReg vf _).reg]
    exact sameOutcomeBut_next (((h.setReg vf _).setReg x _).setPc _)
  | subnReg x y =>
    simp only [exec_subnReg _ x y _ rfl, h.pc, h.reg, (h.setReg vf _).reg]
    exact sameOutcomeBut_next (((h.setReg vf _).setReg x _).setPc _)
  | shl x y =>
    simp only [exec_shl _ x y _ rfl, h.pc, h.reg, (h.setReg vf _).reg]
    exact sameOutcomeBut_next (((h.setReg vf _).setReg x _).setPc _)
  | rnd x nn =>
    simp only [exec_rnd, h.pc, h.draws]
    exact sameOutcomeBut_next (((h.setDraws _).setReg x _).setPc _)
  -- the framebuffer
  | cls => simp only [exec_cls, h.pc]; exact sameOutcomeBut_next ((h.setFb _).setPc _)
  | drw x y n =>
    obtain ⟨hhit, hst⟩ := h.drawRows ((s.reg x).toNat % 64) ((s.reg y).toNat % 32) n.toNat
    simp only [exec_drw _ x y n _ rfl, h.pc, h.reg, hhit]
    exact sameOutcomeBut_next ((hst.setReg vf _).setPc _)
  -- the index register and memory
  | ldI nnn => simp only [exec_ldI, h.pc]; exact sameOutcomeBut_next ((h.setI _).setPc _)
  | addI x => simp only [exec_addI, h.pc, h.i, h.reg]; exact sameOutcomeBut_next ((h.setI _).setPc _)
  | ldF x => simp only [exec_ldF, h.pc, h.reg]; exact sameOutcomeBut_next ((h.setI _).setPc _)
  | ldB x =>
    simp only [exec_ldB, h.pc, h.reg, h.effAddr]
    exact sameOutcomeBut_next ((((h.memWrite _ _).memWrite _ _).memWrite _ _).setPc _)
  | ldMemVx x => simp only [exec_ldMemVx, h.pc]; exact sameOutcomeBut_next ((h.storeRegs _).setPc _)
  | ldVxMem x => simp only [exec_ldVxMem, h.pc]; exact sameOutcomeBut_next ((h.loadRegs _).setPc _)
  -- timers and keys
  | ldVxDt x => simp only [exec_ldVxDt, h.pc, h.dt]; exact sameOutcomeBut_next ((h.setReg x _).setPc _)
  | ldVxK x => exact exec_ldVxK_agree h (hi.resolve_left fun hne => hne x rfl) x
  | ldDtVx x => simp only [exec_ldDtVx, h.pc, h.reg]; exact sameOutcomeBut_next ((h.setDt _).setPc _)
  | ldStVx x => simp only [exec_ldStVx, h.pc, h.reg]; exact sameOutcomeBut_next ((h.setSt _).setPc _)

end

/-- Settles O43: `exec_agree` for `ST`, the accumulators and `VIOL`. -/
theorem instructionsDoNotReadHiddenState : Obligations.InstructionsDoNotReadHiddenState := by
  intro i s s' t hmem hkeeps ht
  have h : AgreeBut [.st, .accT, .accC, .viol] s s' := ⟨by decide, hmem, hkeeps⟩
  obtain ⟨t', ht', hagree⟩ := exec_agree i h (.inr (by decide)) t ht
  exact ⟨t', ht', hagree.keeps⟩

/-- Settles O44: `exec_agree` for the snapshot, which `FX0A` alone reads. -/
theorem onlyKeyWaitReadsTheSnapshot : Obligations.OnlyKeyWaitReadsTheSnapshot := by
  intro i s s' t hi hmem hkeeps ht
  have h : AgreeBut [.keypadPrev] s s' := ⟨by decide, hmem, hkeeps⟩
  obtain ⟨t', ht', hagree⟩ := exec_agree i h (.inl hi) t ht
  exact ⟨t', ht', hagree.keeps⟩

end Sys2Proof.Machine
end

section
/-! Memory accesses (20_memory.md R47, R48), and that a fetch reads what an earlier instruction stored (R58, R59). -/

namespace Sys2Proof.Machine

variable (s : State)

/-! ### One access -/

/-- What each byte reads as after a write (R48). -/
theorem State.byteAt_memWrite (h : Memory.wf s.cfg.font s.mem = true) (a : Nat) (b : Byte) (c : Nat) :
    (s.memWrite a b).byteAt c = if c = a % 4096 then b else s.byteAt c := by
  split
  next hc => rw [hc, s.byteAt_memWrite_same h]
  next hc => exact s.byteAt_memWrite_other a b hc

@[simp] theorem State.memRead_fst (a : Nat) : (s.memRead a).1 = s.byteAt (a % 4096) := rfl

@[simp] theorem State.memRead_snd_viol (a : Nat) :
    (s.memRead a).2.viol = if 4096 ≤ a then s.viol ||| 4#8 else s.viol := by
  rw [State.memRead_eq, State.setViol_viol]

@[simp] theorem State.memWrite_viol (a : Nat) (b : Byte) :
    (s.memWrite a b).viol = if 4096 ≤ a then s.viol ||| 4#8 else s.viol := by
  rw [State.memWrite_eq, State.setMem_viol, State.setViol_viol]

theorem keepsExcept_memRead (a : Nat) : KeepsExcept [.viol] s (s.memRead a).2 := by
  rw [State.memRead_eq]
  exact keepsExcept_setViol s _

theorem keepsBytesExcept_memWrite (a : Nat) (b : Byte) : KeepsBytesExcept [a % 4096] s (s.memWrite a b) :=
  fun _ hc => s.byteAt_memWrite_other a b (mt List.mem_singleton.mpr hc)

/-- Settles O28: a read answers the byte at its address mod 4096, and `byteAt_memWrite` says what that is after the write. -/
theorem memoryWriteThenRead : Obligations.MemoryWriteThenRead := by
  intro s a b ⟨hwf, _⟩
  exact ⟨fun c => s.byteAt_memWrite hwf a b (c % 4096), s.memWrite_viol a b, keepsExcept_memWrite s a b,
    keepsBytesExcept_memWrite s a b, s.memRead_snd_viol a, keepsExcept_memRead s a⟩

/-! ### Registers stored, then fetched -/

/-- Each stored register is read back at its address (R134). -/
theorem State.byteAt_storeRegs (h : Memory.wf s.cfg.font s.mem = true) {n k : Nat} (hn : n ≤ 16) (hk : k < n) :
    (s.storeRegs n).byteAt (s.effAddr k % 4096) = s.reg (BitVec.ofNat 4 k) := by
  obtain ⟨m, e, -, hstored⟩ := s.storeRegs_spec n hn
  obtain ⟨-, hread⟩ := hstored h
  rw [e]
  exact hread k hk

theorem State.fetchWord_setPc (p : Word) :
    (s.setPc p).fetchWord = wordOfBytes (s.byteAt (p.toNat % 4096)) (s.byteAt ((p.toNat + 1) % 4096)) := rfl

/-- Settles O29: the two addresses of a fetch at `I` are those where `FX55` stored `V[0]` and `V[1]`. -/
theorem storedBytesAreFetched : Obligations.StoredBytesAreFetched := by
  intro x s ⟨hwf, _⟩ hx
  refine ⟨_, exec_ldMemVx s x, fun p hp => ?_⟩
  have hV0 : (s.storeRegs (x.toNat + 1)).byteAt (s.effAddr 0 % 4096) = s.reg 0#4 :=
    s.byteAt_storeRegs hwf x.isLt (by omega)
  have hV1 : (s.storeRegs (x.toNat + 1)).byteAt (s.effAddr 1 % 4096) = s.reg 1#4 :=
    s.byteAt_storeRegs hwf x.isLt (by omega)
  rw [State.fetchWord_setPc, hp, State.setPc_byteAt, State.setPc_byteAt]
  exact congrArg₂ wordOfBytes hV0 hV1

end Sys2Proof.Machine
end

section
/-! Decode and encode are inverse (30_encoding.md R66, R69 to R72): a word is its fields, each fixed digit that `decode`
checks is the digit that `encode` puts there, and the words for which a check fails are the sets of R71. -/

namespace Sys2Proof

variable {w : Word} {i : Instr}

/-! ### The fields of a word as digits (R66) -/

theorem opField_toNat (w : Word) : (opField w).toNat = w.toNat / 4096 := by
  rw [opField, BitVec.extractLsb'_toNat, Nat.shiftRight_eq_div_pow]
  omega

theorem nField_toNat (w : Word) : (nField w).toNat = w.toNat % 16 := by
  rw [nField, BitVec.extractLsb'_toNat, Nat.shiftRight_zero]

theorem nField_eq_zero_iff : nField w = 0#4 ↔ (nField w).toNat = 0 := BitVec.toNat_inj.symm

theorem nnField_toNat (w : Word) : (nnField w).toNat = w.toNat % 256 := by
  rw [nnField, BitVec.extractLsb'_toNat, Nat.shiftRight_zero]

/-! ### Decode of encode -/

/-- A word `0NNN` other than `00E0` and `00EE` decodes to its `sys` (R69). -/
theorem decodeSys_encode_sys {nnn : Addr12} (h : (Instr.sys nnn).wellFormed = true) :
    decodeSys (packNNN 0#4 nnn) = .sys nnn := by
  simp only [Instr.wellFormed, Bool.and_eq_true, bne_iff_ne] at h
  obtain ⟨hcls, hret⟩ := h
  have hE0 : packNNN 0#4 nnn ≠ 0x00E0#16 := fun e => hcls (by rw [← nnnField_packNNN 0#4 nnn, e]; rfl)
  have hEE : packNNN 0#4 nnn ≠ 0x00EE#16 := fun e => hret (by rw [← nnnField_packNNN 0#4 nnn, e]; rfl)
  rw [decodeSys, if_neg hE0, if_neg hEE, nnnField_packNNN]

theorem decode_encode (h : i.wellFormed = true) : decode (encode i) = .ok i := by
  cases i with
  | cls | ret => rfl
  | sys nnn => simp [encode, decode, decodeSys_encode_sys h]
  | ldReg x y | orReg x y | andReg x y | xorReg x y | addReg x y | subReg x y | shr x y | subnReg x y | shl x y =>
    simp [encode, decode, decodeAlu]
  | skp x | sknp x => simp [encode, decode, decodeKey]
  | ldVxDt x | ldVxK x | ldDtVx x | ldStVx x | addI x | ldF x | ldB x | ldMemVx x | ldVxMem x =>
    simp [encode, decode, decodeMisc]
  | _ => simp [encode, decode]

/-- Settles O2: `decode_encode`, and the two bytes of a word are read back as the word. -/
theorem decodeOfEncodeIsIdentity : Obligations.DecodeOfEncodeIsIdentity := by
  intro i hi
  refine ⟨decode_encode hi, fun rest => ?_⟩
  rw [decodeBytes_bytesOfWord, decode_encode hi]

/-! ### Encode of decode: a word whose fixed digits are checked is the packed word of its fields (R70) -/

theorem packNNN_of_op {o : Nibble} (ho : (opField w).toNat = o.toNat) : packNNN o (nnnField w) = w := by
  rw [← BitVec.eq_of_toNat_eq ho, packNNN_fields]

theorem packXNN_of_op {o : Nibble} (ho : (opField w).toNat = o.toNat) : packXNN o (xField w) (nnField w) = w := by
  rw [← BitVec.eq_of_toNat_eq ho, packXNN_fields]

theorem packXNN_of_op_nn {o : Nibble} {nn : Byte} (ho : (opField w).toNat = o.toNat)
    (hnn : (nnField w).toNat = nn.toNat) : packXNN o (xField w) nn = w := by
  rw [← BitVec.eq_of_toNat_eq hnn, packXNN_of_op ho]

theorem packXYN_of_op {o : Nibble} (ho : (opField w).toNat = o.toNat) :
    packXYN o (xField w) (yField w) (nField w) = w := by
  rw [← BitVec.eq_of_toNat_eq ho, packXYN_fields]

theorem packXYN_of_op_n {o n : Nibble} (ho : (opField w).toNat = o.toNat) (hn : (nField w).toNat = n.toNat) :
    packXYN o (xField w) (yField w) n = w := by
  rw [← BitVec.eq_of_toNat_eq hn, packXYN_of_op ho]

/-- `i` is a well-formed instruction whose word is `w`. -/
def IsWordOf (w : Word) (i : Instr) : Prop := encode i = w ∧ i.wellFormed = true

theorem isWordOf_decodeSys (ho : (opField w).toNat = 0x0) : IsWordOf w (decodeSys w) := by
  have hw : packNNN 0#4 (nnnField w) = w := packNNN_of_op ho
  unfold decodeSys
  split
  · next h => exact ⟨h.symm, rfl⟩
  · next hE0 =>
    split
    · next h => exact ⟨h.symm, rfl⟩
    · next hEE =>
      have hcls : nnnField w ≠ 0x0E0#12 := fun e => hE0 (by rw [← hw, e]; rfl)
      have hret : nnnField w ≠ 0x0EE#12 := fun e => hEE (by rw [← hw, e]; rfl)
      exact ⟨hw, by simp [Instr.wellFormed, hcls, hret]⟩

theorem isWordOf_of_decodeAlu (ho : (opField w).toNat = 0x8) (h : decodeAlu w = .ok i) : IsWordOf w i := by
  unfold decodeAlu at h
  split at h <;> cases h
  all_goals next hn => exact ⟨packXYN_of_op_n ho hn, rfl⟩

theorem isWordOf_of_decodeKey (ho : (opField w).toNat = 0xE) (h : decodeKey w = .ok i) : IsWordOf w i := by
  unfold decodeKey at h
  split at h <;> cases h
  all_goals next hnn => exact ⟨packXNN_of_op_nn ho hnn, rfl⟩

theorem isWordOf_of_decodeMisc (ho : (opField w).toNat = 0xF) (h : decodeMisc w = .ok i) : IsWordOf w i := by
  unfold decodeMisc at h
  split at h <;> cases h
  all_goals next hnn => exact ⟨packXNN_of_op_nn ho hnn, rfl⟩

theorem isWordOf_of_decode (h : decode w = .ok i) : IsWordOf w i := by
  unfold decode at h
  split at h
  -- 0NNN
  case h_1 ho => cases h; exact isWordOf_decodeSys ho
  -- 1NNN, 2NNN, ANNN, BNNN
  case h_2 ho | h_3 ho | h_11 ho | h_12 ho => cases h; exact ⟨packNNN_of_op ho, rfl⟩
  -- 3XNN, 4XNN, 6XNN, 7XNN, CXNN
  case h_4 ho | h_5 ho | h_7 ho | h_8 ho | h_13 ho => cases h; exact ⟨packXNN_of_op ho, rfl⟩
  -- 5XY0, 9XY0
  case h_6 ho | h_10 ho =>
    split at h
    · next hn => cases h; exact ⟨packXYN_of_op_n ho (congrArg BitVec.toNat hn), rfl⟩
    · cases h
  -- 8XYn
  case h_9 ho => exact isWordOf_of_decodeAlu ho h
  -- DXYN
  case h_14 ho => cases h; exact ⟨packXYN_of_op ho, rfl⟩
  -- EXnn
  case h_15 ho => exact isWordOf_of_decodeKey ho h
  -- FXnn, the one value of a nibble that the other arms leave
  case h_16 =>
    have ho : (opField w).toNat = 0xF := by simp only [imp_false] at *; omega
    exact isWordOf_of_decodeMisc ho h

/-- Settles O3: each arm of `decode` checks the digits that `encode` fixes and keeps the other fields. -/
theorem encodeOfDecodeIsIdentity : Obligations.EncodeOfDecodeIsIdentity :=
  fun _ _ h => isWordOf_of_decode h

/-! ### The unrecognised words (R71) -/

theorem decodeAlu_error_iff :
    (∃ u, decodeAlu w = .error u) ↔ (nField w).toNat ∈ [0x8, 0x9, 0xA, 0xB, 0xC, 0xD, 0xF] := by
  have hlt : (nField w).toNat < 16 := (nField w).isLt
  unfold decodeAlu
  split
  case h_10 =>
    simp only [imp_false] at *
    simp
    omega
  all_goals next hn => simp [hn]

theorem decodeKey_error_iff : (∃ u, decodeKey w = .error u) ↔ (nnField w).toNat ∉ [0x9E, 0xA1] := by
  unfold decodeKey
  split
  case h_3 h9E hA1 => simpa using ⟨h9E, hA1⟩
  all_goals next hnn => simp [hnn]

theorem decodeMisc_error_iff :
    (∃ u, decodeMisc w = .error u) ↔
      (nnField w).toNat ∉ [0x07, 0x0A, 0x15, 0x18, 0x1E, 0x29, 0x33, 0x55, 0x65] := by
  unfold decodeMisc
  split
  case h_10 =>
    simp only [imp_false] at *
    simp
    omega
  all_goals next hnn => simp [hnn]

theorem decode_error_iff :
    (∃ u, decode w = .error u) ↔
      ((opField w).toNat = 0x5 ∧ (nField w).toNat ≠ 0) ∨
      ((opField w).toNat = 0x8 ∧ (nField w).toNat ∈ [0x8, 0x9, 0xA, 0xB, 0xC, 0xD, 0xF]) ∨
      ((opField w).toNat = 0x9 ∧ (nField w).toNat ≠ 0) ∨
      ((opField w).toNat = 0xE ∧ (nnField w).toNat ∉ [0x9E, 0xA1]) ∨
      ((opField w).toNat = 0xF ∧
        (nnField w).toNat ∉ [0x07, 0x0A, 0x15, 0x18, 0x1E, 0x29, 0x33, 0x55, 0x65]) := by
  rw [← decodeAlu_error_iff, ← decodeKey_error_iff, ← decodeMisc_error_iff]
  unfold decode
  split
  -- 5XYn, 9XYn
  case h_6 ho | h_10 ho =>
    by_cases hn : (nField w).toNat = 0 <;> simp [ho, hn, nField_eq_zero_iff]
  -- FXnn
  case h_16 =>
    have ho : (opField w).toNat = 0xF := by simp only [imp_false] at *; omega
    simp [ho]
  all_goals next ho => simp [ho]

/-- Settles O4: `decode_error_iff`, with the fields read as digits of the word. -/
theorem unrecognisedWordsAreExactlyTheUnlisted : Obligations.UnrecognisedWordsAreExactlyTheUnlisted := by
  intro w
  rw [decode_error_iff, opField_toNat, nField_toNat, nnField_toNat]

/-- Settles O1: `decode` evaluated at each word. -/
theorem decodeReadsSpecWords : Obligations.DecodeReadsSpecWords := by
  unfold Obligations.DecodeReadsSpecWords
  decide

end Sys2Proof
end

section
/-! The fetch (30_encoding.md R68): the word it reads, and the two bits it may set. -/

namespace Sys2Proof

theorem wordOfBytes_toNat (hi lo : Byte) : (wordOfBytes hi lo).toNat = hi.toNat * 256 + lo.toNat := by
  rw [wordOfBytes, BitVec.toNat_append, ← Nat.shiftLeft_add_eq_or_of_lt lo.isLt, Nat.shiftLeft_eq]

end Sys2Proof

namespace Sys2Proof.Machine

theorem step_of_decode {s : State} {i : Instr} (h : decode s.fetchWord = .ok i) : step s = exec i s.fetchFlags := by
  rw [step, h]

/-- Settles O6: `viol_bit_fetchFlags` at bits 4, 3 and any other, and the frame of the fetch. -/
theorem fetchFlagsOddAndOutOfMemoryPc : Obligations.FetchFlagsOddAndOutOfMemoryPc := by
  intro s
  refine ⟨wordOfBytes_toNat _ _, ?_, ?_, fun j h3 h4 => ?_, keepsExcept_fetchFlags s, fun i h => step_of_decode h⟩
  · rw [viol_bit_fetchFlags]; simp
  · rw [viol_bit_fetchFlags]; simp
  · rw [viol_bit_fetchFlags]; simp [h3, h4]

end Sys2Proof.Machine
end

section
/-! Control transfer (40_step_and_control.md R85, R88 to R93): where `PC` and `SP` land, and what stays. -/

namespace Sys2Proof.Machine

@[simp] theorem zextAddr_toNat (nnn : Addr12) : (zextAddr nnn).toNat = nnn.toNat :=
  BitVec.toNat_setWidth_of_le (by decide)

@[simp] theorem zextByte_toNat (b : Byte) : (zextByte b).toNat = b.toNat :=
  BitVec.toNat_setWidth_of_le (by decide)

/-- ADV in numbers (R87). -/
theorem toNat_add_two (a : Word) : (a + 2#16).toNat = (a.toNat + 2) % 65536 := BitVec.toNat_add a 2#16

/-- The target of `BNNN` is not reduced: the sum is at most 0x10FE (R92). -/
theorem zextAddr_add_zextByte_toNat (nnn : Addr12) (b : Byte) :
    (zextAddr nnn + zextByte b).toNat = nnn.toNat + b.toNat := by
  rw [BitVec.toNat_add, zextAddr_toNat, zextByte_toNat]
  exact Nat.mod_eq_of_lt (by omega)

theorem step_of_unrecognised {s : State} {u : Unrecognised} (h : decode s.fetchWord = .error u) :
    step s = .next (s.fetchFlags.setPc (s.pc + 2#16)) := by
  obtain ⟨b, hb, -⟩ := s.fetchFlags_spec
  rw [step, h, hb]
  rfl

/-- Settles O9: `exec_call_push` and `exec_call_overflow`, with the frame of each chain of setters. -/
theorem callPushesAndJumpsOrOverflows : Obligations.CallPushesAndJumpsOrOverflows := by
  refine fun nnn s => ⟨fun h => ?push, fun h => ?overflow⟩
  case push =>
    have hsp : (s.sp + 1#8).toNat = s.sp.toNat + 1 :=
      BitVec.toNat_add_of_lt (show s.sp.toNat + 1 < 2 ^ 8 by omega)
    refine ⟨_, exec_call_push s nnn h, zextAddr_toNat nnn, hsp, ?_, fun j hj hne => ?_, ?_⟩
    · exact Vector.getElem_set_self h
    · exact Vector.getElem_set_ne h hj hne.symm
    · exact (((keepsExcept_setStack s _).append (keepsExcept_setSp _ _)).setPc _).mono (by simp)
  case overflow =>
    exact ⟨_, exec_call_overflow s nnn (BitVec.eq_of_toNat_eq h), toNat_add_two s.pc, rfl,
      (keepsExcept_setViol s _).setPc _⟩

/-- Settles O10: `exec_ret_pop` and `exec_ret_underflow`, with the frame of each chain of setters. -/
theorem returnPopsAndAdvancesOrUnderflows : Obligations.ReturnPopsAndAdvancesOrUnderflows := by
  refine fun s => ⟨fun h h0 => ?pop, fun h => ?underflow⟩
  case pop =>
    have hne : s.sp ≠ 0#8 := fun e => h0 (by rw [e]; rfl)
    have hsp : (s.sp - 1#8).toNat = s.sp.toNat - 1 :=
      BitVec.toNat_sub_of_le (BitVec.le_def.mpr (Nat.one_le_iff_ne_zero.mpr h0))
    exact ⟨_, exec_ret_pop s hne h, toNat_add_two _, hsp, (keepsExcept_setSp s _).setPc _⟩
  case underflow =>
    exact ⟨_, exec_ret_underflow s (BitVec.eq_of_toNat_eq h), toNat_add_two s.pc, rfl,
      (keepsExcept_setViol s _).setPc _⟩

/-- Settles O12: the return of `u` pops the entry that the call pushed, because `u` has the call's stack and `SP`. -/
theorem returnLandsPastItsCall : Obligations.ReturnLandsPastItsCall := by
  intro nnn s hs
  obtain ⟨t, hcall, -, htsp, hpush, -, -⟩ := (callPushesAndJumpsOrOverflows nnn s).1 hs
  refine ⟨t, hcall, fun u hstack husp => ?_⟩
  have htop : u.sp.toNat - 1 = s.sp.toNat := by rw [husp, htsp]; rfl
  obtain ⟨r, hret, hpc, hrsp, -⟩ := (returnPopsAndAdvancesOrUnderflows u).1 (by omega) (by rw [husp, htsp]; omega)
  refine ⟨r, hret, ?_, BitVec.eq_of_toNat_eq (hrsp.trans htop)⟩
  simpa only [hstack, htop, hpush] using hpc

/-- Settles O5: the word the statement writes out is `State.fetchWord`. -/
theorem stepRunsTheDecodedInstruction : Obligations.StepRunsTheDecodedInstruction :=
  fun _ _ h => step_of_decode h

/-- Settles O7: `0NNN` and an unrecognised word both answer the state with `PC + 2`. -/
theorem sysAndUnrecognisedWordsOnlyAdvance : Obligations.SysAndUnrecognisedWordsOnlyAdvance :=
  ⟨fun nnn s => ⟨_, exec_sys s nnn, toNat_add_two s.pc, keepsExcept_setPc s _⟩,
    fun s _ h => ⟨_, step_of_unrecognised h, toNat_add_two s.pc, keepsExcept_setPc s.fetchFlags _⟩⟩

/-- Settles O8: each jump answers the state with `PC` at its target. -/
theorem jumpsSetPc : Obligations.JumpsSetPc := fun nnn s =>
  ⟨⟨_, exec_jp s nnn, zextAddr_toNat nnn, keepsExcept_setPc s _⟩,
    ⟨_, exec_jpV0 s nnn, zextAddr_add_zextByte_toNat nnn _, keepsExcept_setPc s _⟩⟩

end Sys2Proof.Machine
end

section
/-! The conditional skips (41_skip.md R100 to R107): `PC` moves by 4 or by 2, and only a key above 15 changes anything else. -/

namespace Sys2Proof.Machine

variable {s : State} {i : Instr}

/-- SKIP or ADV in numbers (R87, R100). -/
theorem toNat_add_ite (a : Word) (c : Prop) [Decidable c] (m n : Nat) :
    (a + if c then BitVec.ofNat 16 m else BitVec.ofNat 16 n).toNat = (a.toNat + if c then m else n) % 65536 := by
  rw [← apply_ite (BitVec.ofNat 16), BitVec.toNat_add, BitVec.toNat_ofNat, Nat.add_mod_mod]

/-- An instruction that moves `PC` by one of two distances answers, lands there mod 2^16 and keeps all else (R100). -/
theorem answers_of_exec_setPc_ite {c : Prop} [Decidable c] {m n : Nat}
    (e : exec i s = .next (s.setPc (s.pc + if c then BitVec.ofNat 16 m else BitVec.ofNat 16 n))) :
    ∃ t, exec i s = .next t ∧ t.pc.toNat = (s.pc.toNat + if c then m else n) % 65536 ∧ KeepsExcept [.pc] s t :=
  ⟨_, e, toNat_add_ite s.pc c m n, keepsExcept_setPc s _⟩

/-! ### The key test on either side of key 15 (R107) -/

theorem State.keyPressed_of_le {k : Byte} (h : k.toNat ≤ 15) : s.keyPressed k = (s.keypad.getLsbD k.toNat, s) :=
  if_pos h

theorem State.keyPressed_of_gt {k : Byte} (h : 15 < k.toNat) :
    s.keyPressed k = (false, s.setViol (s.viol ||| 0x20#8)) :=
  if_neg (Nat.not_le_of_gt h)

theorem exec_skp_of_le {x : Nibble} (h : (s.reg x).toNat ≤ 15) :
    exec (.skp x) s = .next (s.setPc (s.pc + if s.keypad.getLsbD (s.reg x).toNat then 4#16 else 2#16)) := by
  rw [exec_skp, State.keyPressed_of_le h]

theorem exec_sknp_of_le {x : Nibble} (h : (s.reg x).toNat ≤ 15) :
    exec (.sknp x) s = .next (s.setPc (s.pc + if s.keypad.getLsbD (s.reg x).toNat then 2#16 else 4#16)) := by
  rw [exec_sknp, State.keyPressed_of_le h]

theorem exec_skp_of_gt {x : Nibble} (h : 15 < (s.reg x).toNat) :
    exec (.skp x) s = .next ((s.setViol (s.viol ||| 0x20#8)).setPc (s.pc + 2#16)) := by
  rw [exec_skp, State.keyPressed_of_gt h, if_neg Bool.false_ne_true]

theorem exec_sknp_of_gt {x : Nibble} (h : 15 < (s.reg x).toNat) :
    exec (.sknp x) s = .next ((s.setViol (s.viol ||| 0x20#8)).setPc (s.pc + 4#16)) := by
  rw [exec_sknp, State.keyPressed_of_gt h, if_neg Bool.false_ne_true]

/-! ### The obligations -/

/-- Settles O15: up to key 15 the two skips test the key's bit; above, the key reads released and the test flags. -/
theorem skipsOnKey : Obligations.SkipsOnKey := by
  refine fun x s => ⟨fun h => ?inRange, fun h => ?outOfRange⟩
  case inRange =>
    exact ⟨answers_of_exec_setPc_ite (exec_skp_of_le h), answers_of_exec_setPc_ite (exec_sknp_of_le h)⟩
  case outOfRange =>
    exact ⟨⟨_, exec_skp_of_gt h, toNat_add_two s.pc, rfl, (keepsExcept_setViol s _).setPc _⟩,
      ⟨_, exec_sknp_of_gt h, BitVec.toNat_add s.pc 4#16, rfl, (keepsExcept_setViol s _).setPc _⟩⟩

/-- Settles O13: both answers are the state with `PC` moved by the comparison with the byte. -/
theorem skipsOnByteCompare : Obligations.SkipsOnByteCompare := fun x nn s =>
  ⟨answers_of_exec_setPc_ite (exec_seImm s x nn), answers_of_exec_setPc_ite (exec_sneImm s x nn)⟩

/-- Settles O14: both answers are the state with `PC` moved by the comparison of the registers. -/
theorem skipsOnRegisterCompare : Obligations.SkipsOnRegisterCompare := fun x y s =>
  ⟨answers_of_exec_setPc_ite (exec_seReg s x y), answers_of_exec_setPc_ite (exec_sneReg s x y)⟩

end Sys2Proof.Machine
end

section
/-! Register loads, the 8-bit ALU and the random AND (42_alu.md R110 to R123; `FX07`): every one of them advances and writes
`V[X]`, some also `VF`; what the two hold afterwards, by the order in which they are written. -/

namespace Sys2Proof.Machine

variable {s u : State} {i : Instr} {x y : Nibble} {b f : Byte}

/-! ### Frames of one and of two register writes -/

theorem keepsRegsExcept_setReg (s : State) (x : Nibble) (b : Byte) : KeepsRegsExcept [x] s (s.setReg x b) :=
  fun k hk => State.setReg_reg_other s x b k (List.ne_of_not_mem_cons hk)

/-- What two steps in a row keep, their sequence keeps. -/
theorem KeepsRegsExcept.append {xs ys : List Nibble} {t : State} (h : KeepsRegsExcept xs s t)
    (h' : KeepsRegsExcept ys t u) : KeepsRegsExcept (xs ++ ys) s u := fun k hk =>
  (h' k fun hm => hk (List.mem_append_right xs hm)).trans (h k fun hm => hk (List.mem_append_left ys hm))

theorem KeepsRegsExcept.swap (h : KeepsRegsExcept [x, y] s u) : KeepsRegsExcept [y, x] s u :=
  fun k hk => h k fun hm => hk ((List.Perm.swap y x []).mem_iff.mp hm)

theorem keepsRegsExcept_setReg_setReg (s : State) (x y : Nibble) (b c : Byte) :
    KeepsRegsExcept [x, y] s ((s.setReg x b).setReg y c) :=
  (keepsRegsExcept_setReg s x b).append (keepsRegsExcept_setReg _ y c)

/-- Register writes followed by ADV (R87). -/
theorem advancesWritingRegs_setPc {xs : List Nibble} (hregs : KeepsRegsExcept xs s u)
    (hparts : KeepsExcept [.regs] s u) : AdvancesWritingRegs xs s (u.setPc (s.pc + 2#16)) :=
  ⟨toNat_add_two s.pc, hregs, hparts.setPc _⟩

/-! ### The three orders of writing: `V[X]` alone, `V[X]` then `VF`, `VF` then `V[X]` -/

theorem answers_of_exec_setReg (e : exec i s = .next ((s.setReg x b).setPc (s.pc + 2#16))) :
    ∃ t, exec i s = .next t ∧ t.reg x = b ∧ AdvancesWritingRegs [x] s t :=
  ⟨_, e, State.setReg_reg_same s x b,
    advancesWritingRegs_setPc (keepsRegsExcept_setReg s x b) (keepsExcept_setReg s x b)⟩

/-- `VF` written last holds the flag, whatever `X`. -/
theorem answers_of_exec_flagLast (e : exec i s = .next (((s.setReg x b).setReg vf f).setPc (s.pc + 2#16))) :
    ∃ t, exec i s = .next t ∧ t.reg vf = f ∧ (x ≠ vf → t.reg x = b) ∧ AdvancesWritingRegs [x, vf] s t :=
  ⟨_, e, State.setReg_reg_same _ vf f,
    fun hx => (State.setReg_reg_other _ vf f x hx).trans (State.setReg_reg_same s x b),
    advancesWritingRegs_setPc (keepsRegsExcept_setReg_setReg s x vf b f) (keepsExcept_setReg_setReg s x vf b f)⟩

/-- `V[X]` written last holds the result, whatever `X`; the flag stays in `VF` only when `X` is not F. -/
theorem answers_of_exec_flagFirst (e : exec i s = .next (((s.setReg vf f).setReg x b).setPc (s.pc + 2#16))) :
    ∃ t, exec i s = .next t ∧ t.reg x = b ∧ (x ≠ vf → t.reg vf = f) ∧ AdvancesWritingRegs [x, vf] s t :=
  ⟨_, e, State.setReg_reg_same _ x b,
    fun hx => (State.setReg_reg_other _ x b vf hx.symm).trans (State.setReg_reg_same s vf f),
    advancesWritingRegs_setPc (keepsRegsExcept_setReg_setReg s vf x f b).swap (keepsExcept_setReg_setReg s vf x f b)⟩

/-! ### The flags and the results in numbers -/

theorem flagByte_toNat (c : Bool) : (flagByte c).toNat = if c then 1 else 0 := by
  cases c <;> rfl

theorem carryFlag_toNat (a b : Byte) : (carryFlag a b).toNat = if 255 < a.toNat + b.toNat then 1 else 0 := by
  rw [carryFlag, flagByte_toNat]
  simp only [decide_eq_true_eq]

theorem noBorrowFlag_toNat (a b : Byte) : (noBorrowFlag a b).toNat = if b.toNat ≤ a.toNat then 1 else 0 := by
  rw [noBorrowFlag, flagByte_toNat]
  simp only [decide_eq_true_eq]

theorem shiftOutLow_toNat (a : Byte) : (shiftOutLow a).toNat = a.toNat % 2 :=
  (BitVec.toNat_and a 1#8).trans (Nat.and_one_is_mod a.toNat)

theorem ushiftRight_toNat (a : Byte) (n : Nat) : (a >>> n).toNat = a.toNat / 2 ^ n := by
  rw [BitVec.toNat_ushiftRight, Nat.shiftRight_eq_div_pow]

theorem shiftOutHigh_toNat (a : Byte) : (shiftOutHigh a).toNat = a.toNat / 128 := ushiftRight_toNat a 7

theorem shiftLeft_one_toNat (a : Byte) : (a <<< 1).toNat = 2 * a.toNat % 256 := by
  rw [BitVec.toNat_shiftLeft, Nat.shiftLeft_eq, Nat.mul_comm]

/-- A difference of registers read after the write of the flag (R118, R120): `VF` reads as the flag. -/
theorem toNat_sub_after_flag (s : State) (f : Byte) (m k : Nibble) :
    ((s.setReg vf f).reg m - (s.setReg vf f).reg k).toNat =
      (256 + (if m = vf then f else s.reg m).toNat - (if k = vf then f else s.reg k).toNat) % 256 := by
  rw [State.setReg_reg, State.setReg_reg, BitVec.toNat_sub]
  omega

/-! ### The obligations -/

/-- Settles O19: the sum is written first and the carry of the old operands last. -/
theorem addSetsCarryOfExactSum : Obligations.AddSetsCarryOfExactSum := by
  intro x y s
  obtain ⟨t, e, hflag, hsum, hadv⟩ := answers_of_exec_flagLast (exec_addReg s x y)
  exact ⟨t, e, by rw [hflag, carryFlag_toNat], fun hx => by rw [hsum hx, BitVec.toNat_add], hadv⟩

/-- Settles O20: `toNat_sub_after_flag` with minuend `V[X]`, in the four cases of `X`, `Y` being F. -/
theorem subWritesNoBorrowFirst : Obligations.SubWritesNoBorrowFirst := by
  intro x y s
  obtain ⟨t, e, hdiff, hflag, hadv⟩ := answers_of_exec_flagFirst (exec_subReg s x y _ rfl)
  have hnat := (congrArg BitVec.toNat hdiff).trans (toNat_sub_after_flag s _ x y)
  exact ⟨_, noBorrowFlag_toNat (s.reg x) (s.reg y), t, e, fun hx => by rw [hflag hx],
    fun hx hy => by rw [hnat, if_neg hx, if_neg hy],
    fun hx hy => by rw [hnat, if_neg hx, if_pos hy],
    fun hx hy => by rw [← hx, hnat, if_pos hx, if_neg hy],
    fun hx hy => by rw [← hx, hnat, if_pos hx, if_pos hy, Nat.add_sub_cancel], hadv⟩

/-- Settles O21: `toNat_sub_after_flag` with minuend `V[Y]`, in the four cases of `X`, `Y` being F. -/
theorem subnWritesNoBorrowFirst : Obligations.SubnWritesNoBorrowFirst := by
  intro x y s
  obtain ⟨t, e, hdiff, hflag, hadv⟩ := answers_of_exec_flagFirst (exec_subnReg s x y _ rfl)
  have hnat := (congrArg BitVec.toNat hdiff).trans (toNat_sub_after_flag s _ y x)
  exact ⟨_, noBorrowFlag_toNat (s.reg y) (s.reg x), t, e, fun hx => by rw [hflag hx],
    fun hx hy => by rw [hnat, if_neg hx, if_neg hy],
    fun hx hy => by rw [hnat, if_neg hx, if_pos hy],
    fun hx hy => by rw [← hx, hnat, if_pos hx, if_neg hy],
    fun hx hy => by rw [← hx, hnat, if_pos hx, if_pos hy, Nat.add_sub_cancel], hadv⟩

/-- `8XY6` (R119): with `X` = F the flag is what is shifted, so nothing is left of it. -/
theorem exec_shr_shifts_after_flag (x y : Nibble) (s : State) : ∃ t, exec (.shr x y) s = .next t ∧
    (x ≠ vf → (t.reg vf).toNat = (s.reg x).toNat % 2 ∧ (t.reg x).toNat = (s.reg x).toNat / 2) ∧
    (x = vf → (t.reg vf).toNat = 0) ∧ AdvancesWritingRegs [x, vf] s t := by
  obtain ⟨t, e, hres, hflag, hadv⟩ := answers_of_exec_flagFirst (exec_shr s x y _ rfl)
  refine ⟨t, e, fun hx => ⟨?_, ?_⟩, fun hx => ?_, hadv⟩
  · rw [hflag hx, shiftOutLow_toNat]
  · rw [hres, State.setReg_reg_other _ _ _ _ hx, ushiftRight_toNat, pow_one]
  · rw [← hx, hres, ← hx, State.setReg_reg_same, ushiftRight_toNat, shiftOutLow_toNat]
    omega

/-- `8XYE` (R121): with `X` = F the flag is what is shifted, so it ends in bit 1. -/
theorem exec_shl_shifts_after_flag (x y : Nibble) (s : State) : ∃ t, exec (.shl x y) s = .next t ∧
    (x ≠ vf → (t.reg vf).toNat = (s.reg x).toNat / 128 ∧ (t.reg x).toNat = 2 * (s.reg x).toNat % 256) ∧
    (x = vf → (t.reg vf).toNat = 2 * ((s.reg vf).toNat / 128)) ∧ AdvancesWritingRegs [x, vf] s t := by
  obtain ⟨t, e, hres, hflag, hadv⟩ := answers_of_exec_flagFirst (exec_shl s x y _ rfl)
  refine ⟨t, e, fun hx => ⟨?_, ?_⟩, fun hx => ?_, hadv⟩
  · rw [hflag hx, shiftOutHigh_toNat]
  · rw [hres, State.setReg_reg_other _ _ _ _ hx, shiftLeft_one_toNat]
  · rw [← hx, hres, ← hx, State.setReg_reg_same, shiftLeft_one_toNat, shiftOutHigh_toNat]
    omega

/-- Settles O22: the two shifts. -/
theorem shiftsPutOutTheirBit : Obligations.ShiftsPutOutTheirBit := fun x y s =>
  ⟨exec_shr_shifts_after_flag x y s, exec_shl_shifts_after_flag x y s⟩

/-- Settles O16: each of the three answers the state with `V[X]` written. -/
theorem registerLoads : Obligations.RegisterLoads := fun x y nn s =>
  ⟨answers_of_exec_setReg (exec_ldImm s x nn), answers_of_exec_setReg (exec_ldReg s x y),
    answers_of_exec_setReg (exec_ldVxDt s x)⟩

/-- Settles O17: the sum of bytes is the sum mod 256. -/
theorem addImmediateWrapsWithoutFlag : Obligations.AddImmediateWrapsWithoutFlag := by
  intro x nn s
  obtain ⟨t, e, hsum, hadv⟩ := answers_of_exec_setReg (exec_addImm s x nn)
  exact ⟨t, e, by rw [hsum, BitVec.toNat_add], hadv⟩

/-- Settles O18: the bits of `|||`, `&&&` and `^^^`. -/
theorem logicActsBitwiseAndKeepsVf : Obligations.LogicActsBitwiseAndKeepsVf := by
  intro x y s
  obtain ⟨tor, eor, hor, aor⟩ := answers_of_exec_setReg (exec_orReg s x y)
  obtain ⟨tand, eand, hand, aand⟩ := answers_of_exec_setReg (exec_andReg s x y)
  obtain ⟨txor, exor, hxor, axor⟩ := answers_of_exec_setReg (exec_xorReg s x y)
  exact ⟨⟨tor, eor, fun j => by rw [hor, BitVec.getLsbD_or], aor⟩,
    ⟨tand, eand, fun j => by rw [hand, BitVec.getLsbD_and], aand⟩,
    ⟨txor, exor, fun j => by rw [hxor, BitVec.getLsbD_xor], axor⟩⟩

/-- Settles O23: `V[X]` is the masked draw, and the draw moves the count on before the write. -/
theorem randomByteIsMaskedAndFresh : Obligations.RandomByteIsMaskedAndFresh := by
  intro x nn s
  refine ⟨_, exec_rnd s x nn, fun j => ?_, rfl, toNat_add_two s.pc, keepsRegsExcept_setReg (s.setDraws _) x _,
    (keepsExcept_setDraws_setReg s _ x _).setPc _⟩
  rw [State.setPc_reg, State.setReg_reg_same, BitVec.getLsbD_and]

end Sys2Proof.Machine
end

section
/-! The index register and the memory transfers through it (43_index_memory.md R130 to R135): what lands in `I`, in the bytes
at `I` and in the registers, and what stays. -/

namespace Sys2Proof.Machine

variable {i : Instr}

/-! ### Effective addresses and the flag of a run of accesses (R49) -/

/-- Two bytes of one transfer have different addresses, also when the transfer wraps at the top of memory. -/
theorem State.effAddr_mod_ne (s : State) {j k : Nat} (hj : j < 4096) (hk : k < 4096) (hne : j ≠ k) :
    s.effAddr j % 4096 ≠ s.effAddr k % 4096 := by
  unfold State.effAddr
  omega

/-- Of the accesses at `I` .. `I + n` the last one decides `MEM_OOB`. -/
theorem violAfter_succ_eq (s : State) (n : Nat) :
    violAfter s (n + 1) = if 4096 ≤ s.effAddr n then s.viol ||| 4#8 else s.viol :=
  if_congr (and_iff_right n.succ_pos) rfl rfl

/-! ### `I` written in numbers -/

/-- An instruction that writes `I` and advances answers, and keeps all else. -/
theorem answers_of_exec_setI {s : State} {a : Word} {n : Nat} (ha : a.toNat = n)
    (e : exec i s = .next ((s.setI a).setPc (s.pc + 2#16))) :
    ∃ t, exec i s = .next t ∧ t.i.toNat = n ∧ t.pc.toNat = (s.pc.toNat + 2) % 65536 ∧ KeepsExcept [.pc, .i] s t :=
  ⟨_, e, ha, toNat_add_two s.pc, (keepsExcept_setI s a).setPc _⟩

theorem add_zextByte_toNat (a : Word) (b : Byte) : (a + zextByte b).toNat = (a.toNat + b.toNat) % 65536 := by
  rw [BitVec.toNat_add, zextByte_toNat]

/-- The address of a glyph is not reduced: it is at most 255 * 5 (R132). -/
theorem glyphAddr_toNat (b : Byte) : (glyphAddr b).toNat = b.toNat * 5 := by
  have hlt : b.toNat * 5 < 2 ^ 16 := by omega
  rw [glyphAddr, BitVec.toNat_mul, zextByte_toNat]
  exact Nat.mod_eq_of_lt hlt

/-! ### The decimal digits of a byte, and three writes in a row (R133) -/

theorem hundreds_toNat (b : Byte) : (hundreds b).toNat = b.toNat / 100 :=
  (BitVec.toNat_ofNat _ 8).trans (Nat.mod_eq_of_lt (by omega))

theorem tens_toNat (b : Byte) : (tens b).toNat = b.toNat / 10 % 10 :=
  (BitVec.toNat_ofNat _ 8).trans (Nat.mod_eq_of_lt (by omega))

theorem ones_toNat (b : Byte) : (ones b).toNat = b.toNat % 10 :=
  (BitVec.toNat_ofNat _ 8).trans (Nat.mod_eq_of_lt (by omega))

/-- What two steps in a row keep of memory, their sequence keeps. -/
theorem KeepsBytesExcept.append {as bs : List Nat} {s t u : State} (h : KeepsBytesExcept as s t)
    (h' : KeepsBytesExcept bs t u) : KeepsBytesExcept (as ++ bs) s u := fun a ha =>
  (h' a fun hm => ha (List.mem_append_right as hm)).trans (h a fun hm => ha (List.mem_append_left bs hm))

section
variable (s : State)

theorem keepsBytesExcept_memWrite_three (a₀ a₁ a₂ : Nat) (b₀ b₁ b₂ : Byte) :
    KeepsBytesExcept [a₀ % 4096, a₁ % 4096, a₂ % 4096] s (((s.memWrite a₀ b₀).memWrite a₁ b₁).memWrite a₂ b₂) :=
  ((keepsBytesExcept_memWrite s a₀ b₀).append (keepsBytesExcept_memWrite _ a₁ b₁)).append
    (keepsBytesExcept_memWrite _ a₂ b₂)

/-- No later write of the three reaches the byte of an earlier one. -/
theorem State.byteAt_memWrite_three (h : Memory.wf s.cfg.font s.mem = true) (b₀ b₁ b₂ : Byte) (u : State)
    (hu : u = ((s.memWrite (s.effAddr 0) b₀).memWrite (s.effAddr 1) b₁).memWrite (s.effAddr 2) b₂) :
    u.byteAt (s.effAddr 0 % 4096) = b₀ ∧ u.byteAt (s.effAddr 1 % 4096) = b₁ ∧ u.byteAt (s.effAddr 2 % 4096) = b₂ := by
  have h01 : s.effAddr 0 % 4096 ≠ s.effAddr 1 % 4096 := s.effAddr_mod_ne (by decide) (by decide) (by decide)
  have h02 : s.effAddr 0 % 4096 ≠ s.effAddr 2 % 4096 := s.effAddr_mod_ne (by decide) (by decide) (by decide)
  have h12 : s.effAddr 1 % 4096 ≠ s.effAddr 2 % 4096 := s.effAddr_mod_ne (by decide) (by decide) (by decide)
  have hwf₁ := s.wf_memWrite h (s.effAddr 0) b₀
  have hwf₂ := State.wf_memWrite _ hwf₁ (s.effAddr 1) b₁
  subst hu
  refine ⟨?first, ?second, ?third⟩
  case first =>
    rw [State.byteAt_memWrite_other _ _ _ h02, State.byteAt_memWrite_other _ _ _ h01, s.byteAt_memWrite_same h]
  case second => rw [State.byteAt_memWrite_other _ _ _ h12, State.byteAt_memWrite_same _ hwf₁]
  case third => exact State.byteAt_memWrite_same _ hwf₂ _ _

/-! ### Registers stored and loaded (R134, R135) -/

theorem State.storeRegs_viol {n : Nat} (hn : n ≤ 16) : (s.storeRegs n).viol = violAfter s n := by
  obtain ⟨m, e, -⟩ := s.storeRegs_spec n hn
  rw [e, State.setViol_viol]

/-- Every byte outside the stored ones reads as before. -/
theorem State.byteAt_storeRegs_other {n a : Nat} (hn : n ≤ 16) (ha : ∀ k, k < n → a ≠ s.effAddr k % 4096) :
    (s.storeRegs n).byteAt a = s.byteAt a := by
  obtain ⟨m, e, hother, -⟩ := s.storeRegs_spec n hn
  rw [e]
  exact hother a ha

theorem State.loadRegs_viol {n : Nat} (hn : n ≤ 16) : (s.loadRegs n).viol = violAfter s n := by
  obtain ⟨vs, e, -⟩ := s.loadRegs_spec n hn
  rw [e]

/-- What each register holds after a load. -/
theorem State.loadRegs_reg {n : Nat} (hn : n ≤ 16) (k : Nibble) :
    (s.loadRegs n).reg k = if k.toNat < n then s.byteAt (s.effAddr k.toNat % 4096) else s.reg k := by
  obtain ⟨vs, e, hvs⟩ := s.loadRegs_spec n hn
  rw [e]
  exact hvs k

end

/-! ### The obligations -/

/-- Settles O25: the three digits in numbers, where `byteAt_memWrite_three` finds them. -/
theorem bcdStoresThreeDigits : Obligations.BcdStoresThreeDigits := by
  intro x s ⟨hwf, _⟩
  obtain ⟨hhundreds, htens, hones⟩ :=
    s.byteAt_memWrite_three hwf (hundreds (s.reg x)) (tens (s.reg x)) (ones (s.reg x)) _ rfl
  refine ⟨_, exec_ldB s x, ?_, ?_, ?_, keepsBytesExcept_memWrite_three s _ _ _ _ _ _, ?viol, toNat_add_two s.pc,
    ((keepsExcept_memWrite_three s _ _ _ _ _ _).setPc _).mono (by simp)⟩
  · rw [State.setPc_byteAt, hhundreds, hundreds_toNat]
  · rw [State.setPc_byteAt, htens, tens_toNat]
  · rw [State.setPc_byteAt, hones, ones_toNat]
  case viol => rw [State.setPc_viol, memWrite_three_viol, violAfter_succ_eq]

/-- Settles O26: the bytes inside and outside the `X + 1` stored ones. -/
theorem storeRegistersToMemory : Obligations.StoreRegistersToMemory := by
  intro x s ⟨hwf, _⟩
  refine ⟨_, exec_ldMemVx s x, fun k hk => ?inside, fun a ha => ?outside, ?viol, toNat_add_two s.pc,
    ((keepsExcept_storeRegs s _ x.isLt).setPc _).mono (by simp)⟩
  case inside =>
    rw [State.setPc_byteAt, s.byteAt_storeRegs hwf x.isLt (Nat.lt_succ_of_le hk), BitVec.ofNat_toNat, BitVec.setWidth_eq]
  case outside => exact s.byteAt_storeRegs_other x.isLt fun k hk => ha k (Nat.le_of_lt_succ hk)
  case viol => rw [State.setPc_viol, s.storeRegs_viol x.isLt, violAfter_succ_eq]

/-- Settles O27: the registers up to `X` and above it. -/
theorem loadRegistersFromMemory : Obligations.LoadRegistersFromMemory := by
  intro x s
  refine ⟨_, exec_ldVxMem s x, fun k hk => ?loaded, fun k hk => ?above, ?viol, toNat_add_two s.pc,
    ((keepsExcept_loadRegs s _ x.isLt).setPc _).mono (by simp)⟩
  case loaded => exact (s.loadRegs_reg x.isLt k).trans (if_pos (Nat.lt_succ_of_le hk))
  case above => exact (s.loadRegs_reg x.isLt k).trans (if_neg (Nat.not_lt_of_le hk))
  case viol => rw [State.setPc_viol, s.loadRegs_viol x.isLt, violAfter_succ_eq]

/-- Settles O24: each of the three answers the state with `I` written. -/
theorem indexRegisterWrites : Obligations.IndexRegisterWrites := fun x nnn s =>
  ⟨answers_of_exec_setI (zextAddr_toNat nnn) (exec_ldI s nnn), answers_of_exec_setI (add_zextByte_toNat _ _) (exec_addI s x),
    answers_of_exec_setI (glyphAddr_toNat _) (exec_ldF s x)⟩

end Sys2Proof.Machine
end

section
/-! The framebuffer (44_display.md R140 to R144): drawing toggles a set of pixels and collides where one of them was set.
Disjoint sets compose, so a sprite is put together from single pixels (the machine's form) or from two bytes per row (the form
of R142); and the set fixes the result, so the two forms agree. -/

namespace Sys2Proof.Machine

variable {c c₁ c₂ : Nat → Nat → Prop} {d d₁ d₂ : Framebuffer × Bool}

/-! ### Pixels and bytes (10_state.md R31) -/

/-- Bit `k` of byte `n` is the pixel in row `n div 8`, `7 - k` columns from the first of its eight. -/
theorem fbPixel_of_bit (f : Framebuffer) (n : Nat) {k : Nat} (hk : k < 8) :
    fbPixel f (n % 8 * 8 + (7 - k)) (n / 8) = (fbByte f n).getLsbD k := by
  have hindex : fbIndex (n % 8 * 8 + (7 - k)) (n / 8) = n := by unfold fbIndex; omega
  have hbit : 7 - (n % 8 * 8 + (7 - k)) % 8 = k := by omega
  rw [fbPixel, hindex, hbit]

theorem fbByte_of_lt (f : Framebuffer) {n : Nat} (hn : n < 256) : fbByte f n = f[n] := by
  rw [fbByte, Vector.getElem?_eq_getElem hn, Option.getD_some]

/-- A framebuffer is its pixels. -/
theorem fb_ext {f g : Framebuffer} (h : ∀ px py, px < 64 → py < 32 → fbPixel f px py = fbPixel g px py) : f = g := by
  refine Vector.ext fun n hn => BitVec.eq_of_getLsbD_eq fun k hk => ?_
  rw [← fbByte_of_lt f hn, ← fbByte_of_lt g hn, ← fbPixel_of_bit f n hk, ← fbPixel_of_bit g n hk]
  exact h _ _ (by omega) (by omega)

theorem fbIndex_lt {x y : Nat} (hx : x < 64) (hy : y < 32) : fbIndex x y < 256 := by
  unfold fbIndex; omega

/-- The pixels where `b`, laid over byte `n`, has a 1. -/
def MaskCovers (n : Nat) (b : Byte) (px py : Nat) : Prop := fbIndex px py = n ∧ b.getLsbD (7 - px % 8) = true

/-- A 1 in bit `k` only reads as 1 in bit `k` only. -/
theorem getLsbD_one_shiftLeft {j k : Nat} (hj : j < 8) : (1#8 <<< k).getLsbD j = true ↔ j = k := by
  rw [BitVec.getLsbD_shiftLeft, BitVec.getLsbD_one]
  simp only [Bool.and_eq_true, decide_eq_true_eq, Bool.not_eq_true', decide_eq_false_iff_not]
  omega

/-- The mask of pixel `(x, y)` covers that pixel only. -/
theorem maskCovers_pixel_iff {x y px py : Nat} (hx : x < 64) (hpx : px < 64) :
    MaskCovers (fbIndex x y) (1#8 <<< (7 - x % 8)) px py ↔ px = x ∧ py = y := by
  rw [MaskCovers, getLsbD_one_shiftLeft (by omega)]
  unfold fbIndex
  omega

/-- XORing `b` into byte `n` toggles a pixel where `b` has a 1 and no other. -/
theorem fbPixel_fbXor (f : Framebuffer) {n : Nat} (hn : n < 256) (b : Byte) (px py : Nat) :
    fbPixel (fbXor f n b) px py =
      (fbPixel f px py ^^ (decide (fbIndex px py = n) && b.getLsbD (7 - px % 8))) := by
  rw [fbPixel, fbByte_fbXor f n b _ hn]
  by_cases h : fbIndex px py = n <;> simp [fbPixel, h]

/-! ### Toggling a set of pixels (R141, R144) -/

/-- A pixel in `c` is set, so that toggling it unsets it (R144). -/
def Collides (c : Nat → Nat → Prop) (f : Framebuffer) : Prop :=
  ∃ px py, px < 64 ∧ py < 32 ∧ c px py ∧ fbPixel f px py = true

theorem collides_congr {f g : Framebuffer} (h : ∀ px py, px < 64 → py < 32 →
    (c₁ px py ∧ fbPixel f px py = true ↔ c₂ px py ∧ fbPixel g px py = true)) : Collides c₁ f ↔ Collides c₂ g :=
  exists_congr fun px => exists_congr fun py => and_congr_right fun hx => and_congr_right fun hy => h px py hx hy

theorem collides_or (f : Framebuffer) : Collides (fun px py => c₁ px py ∨ c₂ px py) f ↔ Collides c₁ f ∨ Collides c₂ f := by
  simp only [Collides, or_and_right, and_or_left, exists_or]

/-- From `d` to `d'` (framebuffer and collision so far) exactly the pixels in `c` are toggled, and the collision is recorded
when one of them was set. -/
structure Toggles (c : Nat → Nat → Prop) (d d' : Framebuffer × Bool) : Prop where
  inside : ∀ px py, px < 64 → py < 32 → c px py → fbPixel d'.1 px py = !(fbPixel d.1 px py)
  outside : ∀ px py, px < 64 → py < 32 → ¬ c px py → fbPixel d'.1 px py = fbPixel d.1 px py
  hit : d'.2 = true ↔ d.2 = true ∨ Collides c d.1

theorem Toggles.refl (d : Framebuffer × Bool) : Toggles (fun _ _ => False) d d :=
  ⟨fun _ _ _ _ h => h.elim, fun _ _ _ _ _ => rfl, by simp [Collides]⟩

theorem Toggles.congr (h : Toggles c₁ d d₁) (hc : ∀ px py, px < 64 → py < 32 → (c₁ px py ↔ c₂ px py)) :
    Toggles c₂ d d₁ where
  inside px py hx hy h₂ := h.inside px py hx hy ((hc px py hx hy).mpr h₂)
  outside px py hx hy h₂ := h.outside px py hx hy (mt (hc px py hx hy).mp h₂)
  hit := h.hit.trans (or_congr_right (collides_congr fun px py hx hy => and_congr_left fun _ => hc px py hx hy))

/-- Two draws in a row that share no pixel toggle the pixels of both. -/
theorem Toggles.trans (h₁ : Toggles c₁ d d₁) (h₂ : Toggles c₂ d₁ d₂) (hdisj : ∀ px py, c₁ px py → ¬ c₂ px py) :
    Toggles (fun px py => c₁ px py ∨ c₂ px py) d d₂ where
  inside px py hx hy h := by
    rcases h with hc | hc
    · rw [h₂.outside px py hx hy (hdisj px py hc), h₁.inside px py hx hy hc]
    · rw [h₂.inside px py hx hy hc, h₁.outside px py hx hy fun hc₁ => hdisj px py hc₁ hc]
  outside px py hx hy h := by
    rw [h₂.outside px py hx hy fun hc => h (.inr hc), h₁.outside px py hx hy fun hc => h (.inl hc)]
  hit := by
    have hsecond : Collides c₂ d₁.1 ↔ Collides c₂ d.1 := collides_congr fun px py hx hy => and_congr_right fun hc => by
      rw [h₁.outside px py hx hy fun hc₁ => hdisj px py hc₁ hc]
    rw [h₂.hit, h₁.hit, hsecond, collides_or, or_assoc]

/-- The set of pixels fixes what comes out. -/
theorem Toggles.unique (h₁ : Toggles c d d₁) (h₂ : Toggles c d d₂) : d₁ = d₂ := by
  refine Prod.ext (fb_ext fun px py hx hy => ?_) (Bool.eq_iff_iff.mpr (h₁.hit.trans h₂.hit.symm))
  by_cases hc : c px py
  · rw [h₁.inside px py hx hy hc, h₂.inside px py hx hy hc]
  · rw [h₁.outside px py hx hy hc, h₂.outside px py hx hy hc]

/-- Toggling the same pixels twice restores the framebuffer. -/
theorem Toggles.twice {f f₁ f₂ : Framebuffer} {a a₁ b b₁ : Bool} (h₁ : Toggles c (f, a) (f₁, a₁))
    (h₂ : Toggles c (f₁, b) (f₂, b₁)) : f₂ = f := by
  refine fb_ext fun px py hx hy => ?_
  by_cases hc : c px py
  · exact (h₂.inside px py hx hy hc).trans ((congrArg _ (h₁.inside px py hx hy hc)).trans (Bool.not_not _))
  · exact (h₂.outside px py hx hy hc).trans (h₁.outside px py hx hy hc)

/-! ### One byte, one pixel, and the two forms of a sprite byte -/

/-- A byte XORed, with a collision `hit` that says whether one of its pixels was set. -/
theorem toggles_fbXor {n : Nat} (hn : n < 256) (b : Byte) (d : Framebuffer × Bool) {hit : Bool}
    (hhit : hit = true ↔ Collides (MaskCovers n b) d.1) : Toggles (MaskCovers n b) d (fbXor d.1 n b, d.2 || hit) where
  inside px py _ _ hc := by
    obtain ⟨hindex, hbit⟩ := hc
    rw [fbPixel_fbXor _ hn, hbit, decide_eq_true hindex]
    exact Bool.xor_true _
  outside px py _ _ hc := by
    have hoff : (decide (fbIndex px py = n) && b.getLsbD (7 - px % 8)) = false := by
      simpa [MaskCovers] using hc
    rw [fbPixel_fbXor _ hn, hoff, Bool.xor_false]
  hit := by rw [Bool.or_eq_true, hhit]

theorem toggles_fbToggle {x y : Nat} (hx : x < 64) (hy : y < 32) (d : Framebuffer × Bool) :
    Toggles (fun px py => px = x ∧ py = y) d (fbToggle d.1 x y, d.2 || fbPixel d.1 x y) := by
  refine (toggles_fbXor (fbIndex_lt hx hy) _ d ?hit).congr fun px py hpx _ => maskCovers_pixel_iff hx hpx
  constructor
  · exact fun h => ⟨x, y, hx, hy, (maskCovers_pixel_iff hx hx).mpr ⟨rfl, rfl⟩, h⟩
  · rintro ⟨px, py, hpx, -, hc, h⟩
    obtain ⟨rfl, rfl⟩ := (maskCovers_pixel_iff hx hpx).mp hc
    exact h

/-- The AND of `b` with byte `n` is nonzero exactly when a pixel that `b` covers is set. -/
theorem and_fbByte_ne_zero_iff (f : Framebuffer) {n : Nat} (hn : n < 256) (b : Byte) :
    b &&& fbByte f n ≠ 0#8 ↔ Collides (MaskCovers n b) f := by
  constructor
  · intro hne
    obtain ⟨k, hk, hbit⟩ : ∃ k, k < 8 ∧ (b &&& fbByte f n).getLsbD k = true := by
      by_contra! hall
      exact hne (BitVec.eq_of_getLsbD_eq fun k hk => by simpa using hall k hk)
    rw [BitVec.getLsbD_and, Bool.and_eq_true, ← fbPixel_of_bit f n hk] at hbit
    have hcol : 7 - (n % 8 * 8 + (7 - k)) % 8 = k := by omega
    exact ⟨n % 8 * 8 + (7 - k), n / 8, by omega, by omega, ⟨by unfold fbIndex; omega, hcol.symm ▸ hbit.1⟩, hbit.2⟩
  · rintro ⟨px, py, -, -, ⟨rfl, hbit⟩, hset⟩ hzero
    have hand : (b &&& fbByte f (fbIndex px py)).getLsbD (7 - px % 8) = true := by
      rw [BitVec.getLsbD_and, hbit, Bool.true_and]; exact hset
    rw [hzero, BitVec.getLsbD_zero] at hand
    cases hand

/-- A byte XORed, with the collision tested byte against byte (R142). -/
theorem toggles_fbXor_and {n : Nat} (hn : n < 256) (b : Byte) (d : Framebuffer × Bool) :
    Toggles (MaskCovers n b) d (fbXor d.1 n b, d.2 || decide (b &&& fbByte d.1 n ≠ 0#8)) :=
  toggles_fbXor hn b d (decide_eq_true_iff.trans (and_fbByte_ne_zero_iff d.1 hn b))

/-- The pixels that the first `n` bits of sprite byte `b` cover when drawn from column `x0` of row `y` (R141 to R143). -/
def ByteCovers (b : Byte) (x0 y n px py : Nat) : Prop :=
  ∃ j, j < n ∧ px = (x0 + j) % 64 ∧ py = y ∧ b.getLsbD (7 - j) = true

theorem byteCovers_succ (b : Byte) (x0 y j px py : Nat) : ByteCovers b x0 y (j + 1) px py ↔
    ByteCovers b x0 y j px py ∨ (px = (x0 + j) % 64 ∧ py = y ∧ b.getLsbD (7 - j) = true) :=
  Nat.exists_lt_succ_right

/-- The pixel-level form toggles what the byte covers: eight columns never meet, there being 64. -/
theorem toggles_drawBits (b : Byte) (x0 : Nat) {y n : Nat} (hy : y < 32) (hn : n ≤ 8) (d : Framebuffer × Bool) :
    Toggles (ByteCovers b x0 y n) d (drawBits b x0 y n d) := by
  induction n with
  | zero => exact (Toggles.refl d).congr fun _ _ _ _ => ⟨False.elim, fun ⟨_, hj, _⟩ => absurd hj (Nat.not_lt_zero _)⟩
  | succ j ih =>
    specialize ih (by omega)
    rw [drawBits]
    by_cases hb : b.getLsbD (7 - j) = true
    · rw [if_pos hb]
      refine (ih.trans (toggles_fbToggle (Nat.mod_lt _ (by decide)) hy _) ?_).congr fun px py _ _ => ?_
      · rintro px py ⟨i, hi, hx, -⟩ ⟨hx', -⟩
        omega
      · rw [byteCovers_succ, eq_true hb, and_true]
    · rw [if_neg hb]
      refine ih.congr fun px py _ _ => ?_
      rw [byteCovers_succ, eq_false hb, and_false, and_false, or_false]

/-- The two bytes that `drawBytes` XORs cover what the sprite byte covers: the right one gets the bits shifted out of the
left one (R142). With no shift the right one is 0. -/
theorem maskCovers_shifted_iff (b : Byte) {x0 y px py : Nat} (hx0 : x0 < 64) (hpx : px < 64) :
    MaskCovers (y * 8 + x0 / 8) (b >>> (x0 % 8)) px py ∨
      MaskCovers (y * 8 + (x0 / 8 + 1) % 8) (b <<< (8 - x0 % 8)) px py ↔ ByteCovers b x0 y 8 px py := by
  simp only [MaskCovers, ByteCovers, fbIndex, BitVec.getLsbD_ushiftRight, BitVec.getLsbD_shiftLeft, Bool.and_eq_true,
    decide_eq_true_eq, Bool.not_eq_true', decide_eq_false_iff_not]
  constructor
  · rintro (⟨hi, hbit⟩ | ⟨hi, ⟨-, hge⟩, hbit⟩)
    · have := BitVec.lt_of_getLsbD hbit
      exact ⟨px % 8 - x0 % 8, by omega, by omega, by omega, by convert hbit using 2; omega⟩
    · exact ⟨px % 8 + 8 - x0 % 8, by omega, by omega, by omega, by convert hbit using 2; omega⟩
  · rintro ⟨j, hj, rfl, rfl, hbit⟩
    rcases Nat.lt_or_ge (x0 % 8 + j) 8 with hlt | hge
    · exact .inl ⟨by omega, by convert hbit using 2; omega⟩
    · exact .inr ⟨by omega, ⟨by omega, by omega⟩, by convert hbit using 2; omega⟩

/-- Without a shift nothing is left for the right byte. -/
theorem not_maskCovers_zero (n px py : Nat) : ¬ MaskCovers n 0#8 px py := by
  rintro ⟨-, hbit⟩
  rw [BitVec.getLsbD_zero] at hbit
  cases hbit

/-- The byte-level form toggles what the byte covers: the two bytes are different ones, so the XOR into the left byte does not
show in the test of the right one. -/
theorem toggles_drawBytes (b : Byte) {x0 y : Nat} (hx0 : x0 < 64) (hy : y < 32) (d : Framebuffer × Bool) :
    Toggles (ByteCovers b x0 y 8) d (drawBytes b x0 y d) := by
  have hL : y * 8 + x0 / 8 < 256 := by omega
  have hR : y * 8 + (x0 / 8 + 1) % 8 < 256 := by omega
  have hne : y * 8 + (x0 / 8 + 1) % 8 ≠ y * 8 + x0 / 8 := by omega
  have hleft := toggles_fbXor_and hL (b >>> (x0 % 8)) d
  simp only [drawBytes]
  by_cases hs : x0 % 8 = 0
  · have hzero : b <<< (8 - x0 % 8) = 0#8 := by rw [hs]; exact BitVec.shiftLeft_eq_zero (Nat.le_refl 8)
    rw [if_pos hs]
    refine hleft.congr fun px py hpx _ => ?_
    rw [← maskCovers_shifted_iff b hx0 hpx, hzero]
    exact (or_iff_left (not_maskCovers_zero _ px py)).symm
  · have hsame := fbByte_fbXor d.1 _ (b >>> (x0 % 8)) (y * 8 + (x0 / 8 + 1) % 8) hL
    rw [if_neg hne] at hsame
    rw [if_neg hs, ← hsame]
    refine (hleft.trans (toggles_fbXor_and hR _ _) ?_).congr fun px py hpx _ => maskCovers_shifted_iff b hx0 hpx
    rintro px py ⟨hi, -⟩ ⟨hi', -⟩
    exact hne (hi'.symm.trans hi)

/-- Settles O34: both forms toggle the same pixels, and those fix what comes out. -/
theorem byteLevelDrawRefinesPixelLevel : Obligations.ByteLevelDrawRefinesPixelLevel := fun b x0 _ d hx hy =>
  (toggles_drawBits b x0 hy (Nat.le_refl 8) d).unique (toggles_drawBytes b hx hy d)

/-! ### A whole sprite (R141) -/

/-- The pixels covered by the first `n` rows of the sprite at `I`, drawn from column `x0` and row `y0`. -/
def RowsCover (s : State) (x0 y0 n px py : Nat) : Prop :=
  ∃ r, r < n ∧ ByteCovers (s.byteAt (s.effAddr r % 4096)) x0 ((y0 + r) % 32) 8 px py

theorem rowsCover_succ (s : State) (x0 y0 r px py : Nat) : RowsCover s x0 y0 (r + 1) px py ↔
    RowsCover s x0 y0 r px py ∨ ByteCovers (s.byteAt (s.effAddr r % 4096)) x0 ((y0 + r) % 32) 8 px py :=
  Nat.exists_lt_succ_right

/-- The start column and row count mod 64 and mod 32 (R142). -/
theorem rowsCover_iff_spriteCovers (x y n : Nibble) (s : State) (px py : Nat) :
    RowsCover s ((s.reg x).toNat % 64) ((s.reg y).toNat % 32) n.toNat px py ↔ SpriteCovers x y n s px py := by
  simp only [RowsCover, ByteCovers, SpriteCovers, Nat.mod_add_mod]
  constructor
  · rintro ⟨r, hr, j, hj, hcov⟩
    exact ⟨j, r, hj, hr, hcov⟩
  · rintro ⟨j, r, hj, hr, hcov⟩
    exact ⟨r, hr, j, hj, hcov⟩

/-- One more row: the framebuffer and the collision are those of drawing its byte, read from the state at the start. -/
theorem State.drawRows_succ (s : State) (x0 y0 r : Nat) :
    (s.drawRows x0 y0 (r + 1)).map State.fb id =
      drawBits (s.byteAt (s.effAddr r % 4096)) x0 ((y0 + r) % 32) 8 ((s.drawRows x0 y0 r).map State.fb id) := by
  obtain ⟨f, e⟩ := s.drawRows_spec x0 y0 r
  have hbyte : ∀ a, ((s.setFb f).setViol (violAfter s r)).byteAt a = s.byteAt a := fun _ => rfl
  simp only [State.drawRows, State.memRead_eq, State.effAddr, e, hbyte, Prod.map, id, State.setFb_fb, State.setViol_fb,
    State.setViol_i, State.setFb_i]

/-- The machine's drawing toggles what its rows cover: they never meet, a sprite having at most 15 of 32. -/
theorem toggles_drawRows (s : State) (x0 y0 : Nat) {n : Nat} (hn : n ≤ 32) :
    Toggles (RowsCover s x0 y0 n) (s.fb, false) ((s.drawRows x0 y0 n).map State.fb id) := by
  induction n with
  | zero =>
    exact (Toggles.refl _).congr fun _ _ _ _ => ⟨False.elim, fun ⟨_, hr, _⟩ => absurd hr (Nat.not_lt_zero _)⟩
  | succ r ih =>
    specialize ih (by omega)
    rw [State.drawRows_succ]
    refine (ih.trans (toggles_drawBits _ x0 (Nat.mod_lt _ (by decide)) (Nat.le_refl 8) _) ?_).congr
      fun px py _ _ => (rowsCover_succ s x0 y0 r px py).symm
    rintro px py ⟨i, hi, _, _, _, hy, _⟩ ⟨_, _, _, hy', _⟩
    omega

/-! ### `DXYN` and `00E0` -/

/-- What `DXYN` answers: the sprite's pixels toggled, its collision in `VF`, and the frame. -/
structure Draws (x y n : Nibble) (s t : State) (hit : Bool) : Prop where
  toggles : Toggles (SpriteCovers x y n s) (s.fb, false) (t.fb, hit)
  flag : t.reg vf = flagByte hit
  viol : t.viol = violAfter s n.toNat
  pc : t.pc = s.pc + 2#16
  regs : KeepsRegsExcept [vf] s t
  parts : KeepsExcept [.pc, .fb, .regs, .viol] s t

theorem exec_drw_draws (x y n : Nibble) (s : State) : ∃ t hit, exec (.drw x y n) s = .next t ∧ Draws x y n s t hit := by
  generalize hp : s.drawRows ((s.reg x).toNat % 64) ((s.reg y).toNat % 32) n.toNat = p
  have hdraw := toggles_drawRows s ((s.reg x).toNat % 64) ((s.reg y).toNat % 32) (n := n.toNat) (by omega)
  have hkeep := keepsExcept_drawRows s ((s.reg x).toNat % 64) ((s.reg y).toNat % 32) n.toNat
  obtain ⟨f, e⟩ := s.drawRows_spec ((s.reg x).toNat % 64) ((s.reg y).toNat % 32) n.toNat
  rw [hp] at hdraw hkeep e
  refine ⟨_, p.2, exec_drw s x y n p hp.symm,
    { toggles := hdraw.congr fun px py _ _ => rowsCover_iff_spriteCovers x y n s px py
      flag := State.setReg_reg_same _ vf _
      viol := ?viol
      pc := rfl
      regs := fun k hk => (keepsRegsExcept_setReg _ vf _ k hk).trans (hkeep .regs (by decide) k)
      parts := ((hkeep.append (keepsExcept_setReg _ vf _)).setPc _).mono (by simp) }⟩
  case viol => rw [State.setPc_viol, State.setReg_viol, e, State.setViol_viol]

/-- Which pixels a sprite covers is read from two registers, `I` and memory. -/
theorem spriteCovers_congr {x y n : Nibble} {s t : State} (hx : t.reg x = s.reg x) (hy : t.reg y = s.reg y)
    (hi : t.i = s.i) (hmem : ∀ a, t.byteAt a = s.byteAt a) (px py : Nat) :
    SpriteCovers x y n t px py ↔ SpriteCovers x y n s px py := by
  simp only [SpriteCovers, State.effAddr, hx, hy, hi, hmem]

/-- Settles O32, by `exec_drw_draws`. -/
theorem drawTogglesExactlyTheSprite : Obligations.DrawTogglesExactlyTheSprite := by
  intro x y n s
  obtain ⟨t, hit, e, h⟩ := exec_drw_draws x y n s
  have hhit : hit = true ↔ Collides (SpriteCovers x y n s) s.fb :=
    h.toggles.hit.trans (or_iff_right Bool.false_ne_true)
  refine ⟨t, e, h.toggles.inside, h.toggles.outside, fun hset => ?collision, fun hset => ?noCollision, h.viol,
    h.pc ▸ toNat_add_two s.pc, h.regs, h.parts.mono (by simp)⟩
  case collision => exact h.flag.trans (congrArg flagByte (hhit.mpr hset))
  case noCollision => exact h.flag.trans (congrArg flagByte (eq_false_of_ne_true (mt hhit.mp hset)))

/-- Settles O33: where the coordinates read as before, the second draw covers the same pixels. -/
theorem drawTwiceRestoresTheScreen : Obligations.DrawTwiceRestoresTheScreen := by
  intro x y n s
  obtain ⟨t, hit, et, ht⟩ := exec_drw_draws x y n s
  obtain ⟨u, hit', eu, hu⟩ := exec_drw_draws x y n t
  refine ⟨t, u, et, eu, fun k hk => ht.regs k (mt List.mem_singleton.mp hk), fun hx hy => ?_⟩
  have hcov := spriteCovers_congr (n := n) hx hy (ht.parts .i (by decide)) (ht.parts .mem (by decide))
  exact ht.toggles.twice (hu.toggles.congr fun px py _ _ => hcov px py)

theorem fbByte_replicate_zero (n : Nat) : fbByte (Vector.replicate 256 0#8) n = 0#8 := by
  rcases Nat.lt_or_ge n 256 with hn | hn
  · rw [fbByte_of_lt _ hn, Vector.getElem_replicate]
  · rw [fbByte, Vector.getElem?_eq_none hn, Option.getD_none]

/-- Settles O31: every byte is 0, so every pixel is a bit of 0. -/
theorem clearScreenUnsetsEveryPixel : Obligations.ClearScreenUnsetsEveryPixel := by
  refine fun s => ⟨_, exec_cls s, fun n _ => fbByte_replicate_zero n, fun px py _ _ => ?pixel, toNat_add_two s.pc,
    ((keepsExcept_setFb s _).setPc _).mono (by simp)⟩
  case pixel => rw [State.setPc_fb, State.setFb_fb, fbPixel, fbByte_replicate_zero, BitVec.getLsbD_zero]

end Sys2Proof.Machine
end

section
/-! The timers and the key wait (45_timers_keys.md R151 to R153): `FX15` and `FX18` write one timer each, and `FX0A` goes by
the bits in which `KEYPAD` and its snapshot differ. -/

namespace Sys2Proof.Machine

/-! ### The timers -/

/-- The sound output is on exactly while `ST` is not 0 (60_exceptions.md R172). -/
theorem State.soundOn_iff (s : State) : s.soundOn = true ↔ s.st.toNat ≠ 0 :=
  decide_eq_true_iff.trans (not_congr BitVec.toNat_inj.symm)

/-- Settles O35: each of the two answers the state with its timer written, and the sound output follows `ST`. -/
theorem timerWrites : Obligations.TimerWrites := fun x s =>
  ⟨⟨_, exec_ldDtVx s x, rfl, toNat_add_two s.pc, ((keepsExcept_setDt s _).setPc _).mono (by simp)⟩,
    ⟨_, exec_ldStVx s x, rfl, State.soundOn_iff _, toNat_add_two s.pc, ((keepsExcept_setSt s _).setPc _).mono (by simp)⟩⟩

/-! ### The keys that changed -/

theorem State.keyChange_eq_zero_iff (s : State) : s.keyChange = 0#16 ↔ s.keypad = s.keypadPrev := BitVec.xor_eq_zero_iff

theorem State.keyChange_bit_iff (s : State) (k : Nat) :
    s.keyChange.getLsbD k = true ↔ s.keypad.getLsbD k ≠ s.keypadPrev.getLsbD k := by
  rw [State.keyChange, BitVec.getLsbD_xor, bne_iff_ne]

/-- A set bit below which no bit is set is the lowest one. -/
theorem lowestBit_eq {w : Word} {k : Nat} (hk : k < 16) (hset : w.getLsbD k = true)
    (hlow : ∀ j, j < k → w.getLsbD j = false) : lowestBit w = k := by
  obtain ⟨hbit, -, hmin⟩ := lowestBitFrom_spec w 0 16 ⟨k, k.zero_le, by omega, hset⟩
  rcases Nat.lt_trichotomy (lowestBit w) k with hlt | heq | hgt
  · exact absurd hbit (Bool.eq_false_iff.mp (hlow _ hlt))
  · exact heq
  · exact absurd hset (Bool.eq_false_iff.mp (hmin k k.zero_le hgt))

/-- Settles O36: with no bit of `keyChange` set the state is held; a set bit with none below it is its lowest bit. -/
theorem keyWaitHoldsOrReportsLowestChange : Obligations.KeyWaitHoldsOrReportsLowestChange := by
  refine fun x s => ⟨fun hagree => ?hold, fun k hk hdiff hbelow => ?report⟩
  case hold =>
    have hsame : s.keypad = s.keypadPrev := BitVec.eq_of_getLsbD_eq hagree
    exact ⟨s, exec_ldVxK_hold s x (s.keyChange_eq_zero_iff.mpr hsame), .refl _ s⟩
  case report =>
    have hset : s.keyChange.getLsbD k = true := (s.keyChange_bit_iff k).mpr hdiff
    have hlow : lowestBit s.keyChange = k := lowestBit_eq hk hset fun j hj =>
      Bool.eq_false_iff.mpr fun hj' => (s.keyChange_bit_iff j).mp hj' (hbelow j hj)
    have hne : s.keyChange ≠ 0#16 := fun e => by rw [e, BitVec.getLsbD_zero] at hset; cases hset
    obtain ⟨t, e, hreg, hadv⟩ := answers_of_exec_setReg (exec_ldVxK_key s x hne)
    refine ⟨t, e, ?_, hadv⟩
    rw [hreg, hlow, BitVec.toNat_ofNat]
    exact Nat.mod_eq_of_lt (by omega)

end Sys2Proof.Machine
end

section
/-! The scheduler (60_exceptions.md R160, R168 to R171): the ticks and the cycles one by one, and ADVANCE as the due ticks and
then the due cycles. ADVANCE counts the accumulators down as it goes and `runTicks` and `runCycles` do not, but nothing they run
reads an accumulator, so the two runs agree but for them. -/

namespace Sys2Proof.Machine

/-- Settles O45: `exec_completes`. -/
theorem everyInstructionCompletes : Obligations.EveryInstructionCompletes := exec_completes

/-! ### The timer ticks (R168) -/

section
variable (s : State)

@[simp] theorem State.timerTick_dt : s.timerTick.dt = countDown s.dt := rfl
@[simp] theorem State.timerTick_st : s.timerTick.st = countDown s.st := rfl

theorem keepsExcept_timerTick : KeepsExcept [.dt, .st] s s.timerTick :=
  (keepsExcept_setDt s _).append (keepsExcept_setSt _ _)

theorem runTicks_dt (n : Nat) : (runTicks n s).dt.toNat = s.dt.toNat - n := by
  induction n generalizing s with
  | zero => rfl
  | succ k ih => rw [runTicks, ih, State.timerTick_dt, countDown_toNat, Nat.sub_sub, Nat.add_comm]

theorem runTicks_st (n : Nat) : (runTicks n s).st.toNat = s.st.toNat - n := by
  induction n generalizing s with
  | zero => rfl
  | succ k ih => rw [runTicks, ih, State.timerTick_st, countDown_toNat, Nat.sub_sub, Nat.add_comm]

end

/-- Settles O37: a tick counts both timers down by 1, and `n` of them by induction. -/
theorem timersCountDownToZero : Obligations.TimersCountDownToZero := fun s n =>
  ⟨countDown_toNat s.dt, countDown_toNat s.st, keepsExcept_timerTick s, runTicks_dt s n, runTicks_st s n⟩

/-! ### The cycles (R171) -/

section
variable {s t u : State}

theorem keepsExcept_snapshot (s : State) : KeepsExcept [.keypadPrev] s s.snapshot := by
  intro p hp; cases p <;> simp_all [Part.same]

/-- A run of one cycle and more is a step, its snapshot, and the rest of the run. -/
theorem runCycles_succ_cases {n : Nat} (h : runCycles (n + 1) s = .next u) :
    ∃ t, step s = .next t ∧ runCycles n t.snapshot = .next u := by
  unfold runCycles at h
  split at h
  · rename_i c hc
    obtain ⟨t, ht, rfl⟩ := cpuCycle_cases hc
    exact ⟨t, ht, h⟩
  · cases h
  · cases h

end

/-- Settles O38: the cycle answers the step's state with its snapshot taken, and no step writes the keypad. -/
theorem snapshotFollowsEveryStep : Obligations.SnapshotFollowsEveryStep := by
  intro s t h
  have hkeypad : t.keypad = s.keypad := step_keeps_schedulerParts (p := .keypad) (by decide) h
  exact ⟨t.snapshot, cpuCycle_of_step h, hkeypad, keepsExcept_snapshot t⟩

/-! ### A step and a tick carry an agreement on -/

section
variable {ps : List Part} {s s' : State}

theorem AgreeBut.refl (hidden : ∀ p ∈ ps, p ∈ hiddenParts) (s : State) : AgreeBut ps s s := ⟨hidden, rfl, .refl ps s⟩

/-- A part the two states may differ in may be written in one of them alone. -/
theorem AgreeBut.of_write_right {p : Part} {u : State} (h : AgreeBut ps s s') (hu : KeepsExcept [p] s' u)
    (hmem : u.mem = s'.mem) (hp : p ∈ ps) : AgreeBut ps s u :=
  h.of_write (.refl _ s) hu (hmem.trans h.mem) (absurd hp)

theorem AgreeBut.snapshot (h : AgreeBut ps s s') : AgreeBut ps s.snapshot s'.snapshot :=
  h.of_write (keepsExcept_snapshot s) (keepsExcept_snapshot s') h.mem fun _ => h.keypad

theorem AgreeBut.timerTick (h : AgreeBut ps s s') (hst : Part.st ∉ ps) : AgreeBut ps s.timerTick s'.timerTick := by
  have hst' : s'.st = s.st := h.keeps .st hst
  simp only [State.timerTick, h.dt, hst']
  exact (h.setDt _).setSt _

theorem AgreeBut.fetchWord (h : AgreeBut ps s s') : s'.fetchWord = s.fetchWord := by
  simp only [State.fetchWord, State.fetchAddrs, h.pc, h.byteAt]

theorem AgreeBut.fetchFlags (h : AgreeBut ps s s') : AgreeBut ps s.fetchFlags s'.fetchFlags := by
  simp only [State.fetchFlags, h.pc]
  exact (h.flagIf _ _).flagIf _ _

/-- Two states that agree fetch the same word, and the instruction carries the agreement on. -/
theorem step_agree (h : AgreeBut ps s s') (hprev : Part.keypadPrev ∉ ps) : SameOutcomeBut ps (step s) (step s') := by
  cases hd : decode s.fetchWord with
  | ok i =>
    rw [step_of_decode hd, step_of_decode (h.fetchWord ▸ hd)]
    exact exec_agree i h.fetchFlags (.inr hprev)
  | error e =>
    rw [step_of_unrecognised hd, step_of_unrecognised (h.fetchWord ▸ hd), h.pc]
    exact sameOutcomeBut_next (h.fetchFlags.setPc _)

end

/-! ### The two loops against the ticks and the cycles due (R169) -/

/-- The accumulators, which ADVANCE alone reads and writes (10_state.md R32). -/
def accumulators : List Part := [.accT, .accC]

theorem AgreeBut.setAccT_right {s s' : State} (h : AgreeBut accumulators s s') (n : Nat) :
    AgreeBut accumulators s (s'.setAccT n) :=
  h.of_write_right (keepsExcept_setAccT s' n) rfl (by decide)

theorem AgreeBut.setAccC_right {s s' : State} (h : AgreeBut accumulators s s') (n : Nat) :
    AgreeBut accumulators s (s'.setAccC n) :=
  h.of_write_right (keepsExcept_setAccC s' n) rfl (by decide)

/-- Where the number of events due is not 0, a period has passed, and taking it off leaves one event fewer. -/
theorem due_of_div_eq_succ {a p n : Nat} (h : a / p = n + 1) : p ≤ a ∧ (a - p) / p = n := by
  have hpos : 0 < a / p := by rw [h]; exact n.succ_pos
  obtain ⟨hp, hdue⟩ := Nat.div_pos_iff.mp hpos
  rw [Nat.div_eq_sub_div hp hdue] at h
  exact ⟨hdue, Nat.succ.inj h⟩

section
variable {s s' t : State}

theorem timerLoop_not_due (fuel : Nat) (h : s.accT < s.cfg.timerPeriodQ) : timerLoop fuel s = s := by
  cases fuel with
  | zero => rfl
  | succ n => rw [timerLoop, if_neg (Nat.not_le.mpr h)]

theorem timerLoop_succ_due {n : Nat} (h : s.cfg.timerPeriodQ ≤ s.accT) :
    timerLoop (n + 1) s = timerLoop n (s.timerTick.setAccT (s.accT - s.cfg.timerPeriodQ)) := by
  rw [timerLoop, if_pos h]

/-- With enough fuel the timer loop does the ticks due. -/
theorem timerLoop_agree {n fuel : Nat} (h : AgreeBut accumulators s s') (hp : 0 < s'.cfg.timerPeriodQ)
    (hn : s'.accT / s'.cfg.timerPeriodQ = n) (hf : n ≤ fuel) :
    AgreeBut accumulators (runTicks n s) (timerLoop fuel s') := by
  induction n generalizing s s' fuel with
  | zero =>
    rw [timerLoop_not_due fuel (Nat.lt_of_div_eq_zero hp hn)]
    exact h
  | succ k ih =>
    obtain ⟨f, rfl⟩ : ∃ f, fuel = f + 1 := ⟨fuel - 1, by omega⟩
    obtain ⟨hdue, hk⟩ := due_of_div_eq_succ hn
    rw [timerLoop_succ_due hdue]
    exact ih ((h.timerTick (by decide)).setAccT_right _) hp hk (Nat.le_of_succ_le_succ hf)

/-- With enough fuel the CPU loop runs the cycles due, where they answer. -/
theorem cpuLoop_agree {n fuel : Nat} (h : AgreeBut accumulators s s') (hp : 0 < s'.cfg.cpuPeriodQ)
    (hn : s'.accC / s'.cfg.cpuPeriodQ = n) (hf : n ≤ fuel) :
    SameOutcomeBut accumulators (runCycles n s) (cpuLoop fuel s') := by
  induction n generalizing s s' fuel with
  | zero =>
    rw [cpuLoop_not_due fuel (Nat.lt_of_div_eq_zero hp hn)]
    exact sameOutcomeBut_next h
  | succ k ih =>
    obtain ⟨f, rfl⟩ : ∃ f, fuel = f + 1 := ⟨fuel - 1, by omega⟩
    obtain ⟨hdue, hk⟩ := due_of_div_eq_succ hn
    intro u hu
    obtain ⟨v, hv, hrest⟩ := runCycles_succ_cases hu
    obtain ⟨v', hv', hagree⟩ := step_agree h (by decide) v hv
    have hcfg : v'.cfg = s'.cfg := step_keeps_schedulerParts (p := .cfg) (by decide) hv'
    have hC : v'.accC = s'.accC := step_keeps_schedulerParts (p := .accC) (by decide) hv'
    have hk' : (v'.accC - v'.cfg.cpuPeriodQ) / v'.cfg.cpuPeriodQ = k := by rw [hC, hcfg, hk]
    rw [cpuLoop_succ_due hdue hv']
    exact ih (hagree.snapshot.setAccC_right _) (by rw [← hcfg] at hp; exact hp) hk' (Nat.le_of_succ_le_succ hf) u hrest

/-! ### What the CPU loop and ADVANCE leave in the accumulators -/

theorem cpuLoop_accT {fuel : Nat} (h : cpuLoop fuel s = .next t) : t.accT = s.accT := by
  induction fuel generalizing s with
  | zero => cases h; rfl
  | succ n ih =>
    obtain ⟨-, u, hu, hloop⟩ | ⟨-, rfl⟩ := cpuLoop_succ_cases h
    · have hT : u.accT = s.accT := step_keeps_schedulerParts (p := .accT) (by decide) hu
      exact (ih hloop).trans hT
    · rfl

/-- With enough fuel the CPU loop leaves `ACC_C` below the period. -/
theorem cpuLoop_accC {fuel : Nat} (hp : 0 < s.cfg.cpuPeriodQ) (hf : s.accC ≤ fuel) (h : cpuLoop fuel s = .next t) :
    t.accC = s.accC % s.cfg.cpuPeriodQ := by
  induction fuel generalizing s with
  | zero =>
    cases h
    rw [Nat.le_zero.mp hf, Nat.zero_mod]
  | succ n ih =>
    obtain ⟨hdue, u, hu, hloop⟩ | ⟨hlt, rfl⟩ := cpuLoop_succ_cases h
    · have hcfg : u.cfg = s.cfg := step_keeps_schedulerParts (p := .cfg) (by decide) hu
      have hC : u.accC = s.accC := step_keeps_schedulerParts (p := .accC) (by decide) hu
      have hn : u.accC - u.cfg.cpuPeriodQ ≤ n := by rw [hcfg]; omega
      have hrest : t.accC = (u.accC - u.cfg.cpuPeriodQ) % u.cfg.cpuPeriodQ :=
        ih (by rw [← hcfg] at hp; exact hp) hn hloop
      rw [hrest, hC, hcfg, ← Nat.mod_eq_sub_mod hdue]
    · exact (Nat.mod_eq_of_lt hlt).symm

/-- An ADVANCE leaves each accumulator the remainder of its credited value (R173). -/
theorem advance_accumulators {q : Nat} (hc : s.cfg.wf) (h : advance q s = .next t) :
    t.accT = (s.accT + q) % s.cfg.timerPeriodQ ∧ t.accC = (s.accC + q) % s.cfg.cpuPeriodQ := by
  obtain ⟨-, -, -, hcpu, htimer⟩ := hc
  have hcfg : (ticked q s).cfg = s.cfg := ticked_keeps (p := .cfg) q s (by decide)
  have hC := ticked_accC q s
  rw [advance_eq_cpuLoop] at h
  refine ⟨(cpuLoop_accT h).trans (ticked_accT q s htimer), ?_⟩
  rw [cpuLoop_accC (hcfg ▸ hcpu) hC.le h, hC, hcfg]

/-- The state ADVANCE hands to the CPU loop is the one after the ticks due. -/
theorem ticked_agree (q : Nat) (s : State) (hp : 0 < s.cfg.timerPeriodQ) :
    AgreeBut accumulators (runTicks ((s.accT + q) / s.cfg.timerPeriodQ) s) (ticked q s) := by
  have hcredit : AgreeBut accumulators s ((s.setAccT (s.accT + q)).setAccC (s.accC + q)) :=
    ((AgreeBut.refl (by decide) s).setAccT_right _).setAccC_right _
  exact timerLoop_agree hcredit hp rfl (Nat.div_le_self _ _)

end

/-- Settles O51: the timer loop does the ticks due (`ticked_agree`), then the CPU loop the cycles due (`cpuLoop_agree`). -/
theorem advanceIsDueTicksThenDueCycles : Obligations.AdvanceIsDueTicksThenDueCycles := by
  intro q s u hc hu
  have ⟨_, _, _, hcpu, htimer⟩ := hc
  have hcfg : (ticked q s).cfg = s.cfg := ticked_keeps (p := .cfg) q s (by decide)
  have hcount : (ticked q s).accC / (ticked q s).cfg.cpuPeriodQ = (s.accC + q) / s.cfg.cpuPeriodQ := by
    rw [ticked_accC, hcfg]
  obtain ⟨t, ht, hagree⟩ :=
    cpuLoop_agree (ticked_agree q s htimer) (hcfg ▸ hcpu) hcount (Nat.div_le_self _ _) u hu
  rw [← advance_eq_cpuLoop] at ht
  obtain ⟨hT, hC⟩ := advance_accumulators hc ht
  exact ⟨t, ht, hT, hC, hagree.mem, hagree.keeps⟩

/-- Settles O52: between transactions neither loop has an event due. -/
theorem advanceByZeroDoesNothing : Obligations.AdvanceByZeroDoesNothing := by
  intro s ⟨_, hT, hC⟩
  have hticked : ticked 0 s = s := timerLoop_not_due s.accT hT
  rw [advance_eq_cpuLoop, hticked]
  exact cpuLoop_not_due _ hC

end Sys2Proof.Machine
end

section
/-! The host's transactions (60_exceptions.md R172 to R177): a write of the keypad, the reads, and runs of transactions. -/

namespace Sys2Proof.Machine

theorem keepsExcept_keypadWrite (k : Word) (s : State) : KeepsExcept [.keypad] s (keypadWrite k s) := by
  intro p hp; cases p <;> simp_all [Part.same]

/-- Settles O50: the frame of the write, and `SOUND_ON` as `State.soundOn_iff` has it. -/
theorem keypadWriteAndReads : Obligations.KeypadWriteAndReads := fun k s =>
  ⟨⟨keypadWrite k s, rfl, rfl, keepsExcept_keypadWrite k s⟩, rfl, rfl, ⟨s.soundOn, rfl, s.soundOn_iff⟩⟩

section
variable {s t u : State}

theorem runHost_cons {tr : Transaction} {ts : List Transaction} {r : Response} {rs : List Response}
    (h : transact tr s = .next (u, r)) (hrest : runHost ts u = .next (t, rs)) :
    runHost (tr :: ts) s = .next (t, r :: rs) := by
  simp only [runHost, h, hrest]

theorem transact_advance {q : Nat} (h : advance q s = .next t) : transact (.advance q) s = .next (t, .none) := by
  simp only [transact, h]

end

/-- Settles O56, by induction on the transactions: each completes between transactions again, with the same parameters. -/
theorem hostRunsAlwaysComplete : Obligations.HostRunsAlwaysComplete := by
  intro ts
  induction ts with
  | nil => exact fun s _ hs => ⟨s, [], rfl, rfl, hs⟩
  | cons tr ts ih =>
    intro s hc hs
    obtain ⟨u, r, hu, hub, hcfg⟩ := transactionsCompleteAndKeepTheInvariant tr s hc hs
    obtain ⟨t, rs, ht, hlen, htb⟩ := ih u (hcfg ▸ hc) hub
    exact ⟨t, r :: rs, runHost_cons hu ht, congrArg (· + 1) hlen, htb⟩

/-- Settles O57, by induction on the quanta: an ADVANCE leaves remainders (`advance_accumulators`), and a remainder credited
again is the sum credited at once. -/
theorem slicingLeavesTheSameRemainders : Obligations.SlicingLeavesTheSameRemainders := by
  intro qs
  induction qs with
  | nil =>
    intro s _ ⟨_, hT, hC⟩
    exact ⟨s, [], rfl, (Nat.mod_eq_of_lt hT).symm, (Nat.mod_eq_of_lt hC).symm⟩
  | cons q qs ih =>
    intro s hc ⟨hinv, _, _⟩
    obtain ⟨u, hu, hub, hcfg⟩ := advance_completes q hc hinv
    obtain ⟨huT, huC⟩ := advance_accumulators hc hu
    obtain ⟨t, rs, ht, hT, hC⟩ := ih u (hcfg ▸ hc) hub
    refine ⟨t, .none :: rs, runHost_cons (transact_advance hu) ht, ?_, ?_⟩
    · rw [hT, huT, hcfg, Nat.mod_add_mod, Nat.add_assoc, List.sum_cons]
    · rw [hC, huC, hcfg, Nat.mod_add_mod, Nat.add_assoc, List.sum_cons]

end Sys2Proof.Machine
end

section
/-! Reset, load and the end of a key wait (70_reset_and_hazards.md R191 to R197), and the canonical memory list as data. -/

namespace Sys2Proof.Machine

/-! ### The key wait between a cycle and the next write of the keypad (R197) -/

/-- The snapshot that ends a cycle (R171) leaves `KEYPAD_PREV` equal to `KEYPAD`. -/
theorem cpuCycle_keypad_eq_keypadPrev {s u : State} (h : cpuCycle s = .next u) : u.keypad = u.keypadPrev := by
  obtain ⟨t, -, rfl⟩ := cpuCycle_cases h
  rfl

/-- Settles O39: after a cycle no key has changed, and a write of any other value changes one. -/
theorem keyWaitEndsOnlyByTheHost : Obligations.KeyWaitEndsOnlyByTheHost := by
  intro x s u h
  have hsame : u.keypad = u.keypadPrev := cpuCycle_keypad_eq_keypadPrev h
  refine ⟨⟨u, exec_ldVxK_hold u x (u.keyChange_eq_zero_iff.mpr hsame), .refl _ u⟩, fun k hk => ?_⟩
  have hchange : (keypadWrite k u).keyChange ≠ 0#16 := fun e =>
    hk (((keypadWrite k u).keyChange_eq_zero_iff.mp e).trans hsame.symm)
  exact ⟨_, exec_ldVxK_key _ x hchange, toNat_add_two u.pc⟩

/-! ### LOAD (R191, R192) -/

/-- `LOAD_OFFSET` lies inside memory (R7), so the limit of an image is where it would run past the last byte. -/
theorem le_imageLimit_iff {c : Config} (hc : c.wf) (n : Nat) : n ≤ imageLimit c ↔ c.loadOffset.toNat + n ≤ 4096 := by
  obtain ⟨-, -, hoff, -⟩ := hc
  unfold imageLimit
  omega

section
variable {bytes : List Byte} {s : State}

theorem transact_load_of_fits (h : bytes.length ≤ imageLimit s.cfg) :
    transact (.load bytes) s = .next (installImage bytes s, .ok) := if_pos h

theorem transact_load_of_too_large (h : ¬ bytes.length ≤ imageLimit s.cfg) :
    transact (.load bytes) s = .next (hostReset s, .tooLarge) := if_neg h

/-- An installed image's byte `j` lies at `LOAD_OFFSET + j`; the memory it is copied over lists nothing. -/
theorem installImage_byteAt_inside (hfit : s.cfg.loadOffset.toNat + bytes.length ≤ 4096) (j : Nat)
    (hj : j < bytes.length) : (installImage bytes s).byteAt (s.cfg.loadOffset.toNat + j) = bytes[j] :=
  Memory.read_copyIn_inside Memory.wf_nil bytes _ hfit j hj

theorem installImage_byteAt_outside {a : Nat}
    (ha : a < s.cfg.loadOffset.toNat ∨ s.cfg.loadOffset.toNat + bytes.length ≤ a) :
    (installImage bytes s).byteAt a = (hostReset s).byteAt a :=
  Memory.read_copyIn_outside (hostReset s).mem bytes _ ha

theorem keepsExcept_installImage (bytes : List Byte) (s : State) :
    KeepsExcept [.mem] (hostReset s) (installImage bytes s) := keepsExcept_setMem (hostReset s) _

end

/-- Settles O48: the image is copied over the reset state's memory, and that is all that LOAD does after RESET. -/
theorem loadInstallsAnImageThatFits : Obligations.LoadInstallsAnImageThatFits := fun bytes s hc hfit =>
  ⟨installImage bytes s, transact_load_of_fits ((le_imageLimit_iff hc _).mpr hfit), installImage_byteAt_inside hfit,
    fun _ => installImage_byteAt_outside, keepsExcept_installImage bytes s⟩

/-- Settles O49: an image that would run past the last byte is above the limit. -/
theorem loadRefusesAnOversizedImage : Obligations.LoadRefusesAnOversizedImage := fun _ _ hc hlarge =>
  transact_load_of_too_large fun h => absurd ((le_imageLimit_iff hc _).mp h) (Nat.not_le.mpr hlarge)

/-! ### What RESET and LOAD depend on (R194) -/

section
variable {s s' : State}

theorem hostReset_hostReset (s : State) : hostReset (hostReset s) = hostReset s := rfl

/-- With the same parameters, RESET gives the same state but for the count of draws, which it keeps (log 2). -/
theorem hostReset_eq_setDraws (h : s.cfg = s'.cfg) : hostReset s' = (hostReset s).setDraws s'.draws := by
  unfold hostReset
  rw [h]
  rfl

theorem installImage_eq_setDraws (h : s.cfg = s'.cfg) (bytes : List Byte) :
    installImage bytes s' = (installImage bytes s).setDraws s'.draws := by
  unfold installImage
  rw [hostReset_eq_setDraws h]
  rfl

end

/-- Settles O47: the two states that RESET gives, and the two that LOAD gives, are one another with the draws set. -/
theorem resetDependsOnlyOnParameters : Obligations.ResetDependsOnlyOnParameters := by
  refine fun s s' => ⟨hostReset_hostReset s, fun hcfg => ⟨?reset, fun bytes => ?load⟩⟩
  case reset =>
    rw [hostReset_eq_setDraws hcfg]
    exact keepsExcept_setDraws _ _
  case load =>
    rw [installImage_eq_setDraws hcfg]
    exact keepsExcept_setDraws _ _

/-! ### Canonical memories that read alike (log 11) -/

section
variable {font : Vector Byte 80} {lo : Nat} {c : Host.Cell} {m m' : List Host.Cell}

@[simp] theorem Memory.read_cons_head (c : Host.Cell) (m : List Host.Cell) : Memory.read font (c :: m) c.1 = c.2 :=
  if_pos rfl

theorem Memory.read_cons_of_lt {a : Nat} (h : c.1 < a) : Memory.read font (c :: m) a = Memory.read font m a :=
  if_neg (Nat.ne_of_lt h)

/-- A memory that reads at the first listed address of a canonical one as that one does lists an address no higher: above
them all it would read the reset contents, which a canonical list never lists. -/
theorem Memory.not_wfFrom_above_head (h : Memory.wfFrom font lo (c :: m) = true)
    (hread : Memory.read font (c :: m) c.1 = Memory.read font m' c.1) : Memory.wfFrom font (c.1 + 1) m' ≠ true := by
  obtain ⟨-, -, hlisted, -⟩ := (Memory.wfFrom_cons lo c m).mp h
  intro h'
  rw [Memory.read_cons_head, Memory.read_below h' (Nat.lt_succ_self _)] at hread
  exact hlisted hread

/-- Where two canonical lists read alike at the first address of one, the other begins no higher. -/
theorem Memory.head_le_of_read_eq {c' : Host.Cell} (h : Memory.wfFrom font lo (c :: m) = true)
    (h' : Memory.wfFrom font lo (c' :: m') = true)
    (hread : Memory.read font (c :: m) c.1 = Memory.read font (c' :: m') c.1) : c'.1 ≤ c.1 := by
  obtain ⟨-, hrest⟩ := (Memory.wfFrom_cons lo c' m').mp h'
  by_contra hlt
  exact Memory.not_wfFrom_above_head h hread ((Memory.wfFrom_cons _ c' m').mpr ⟨Nat.lt_of_not_le hlt, hrest⟩)

/-- Two lists canonical from `lo` on that read alike from there on are equal: their heads lie at the same address, hold the
same byte, and the tails are canonical and read alike past it. -/
theorem Memory.wfFrom_ext (h : Memory.wfFrom font lo m = true) (h' : Memory.wfFrom font lo m' = true)
    (hread : ∀ a, lo ≤ a → a < 4096 → Memory.read font m a = Memory.read font m' a) : m = m' := by
  induction m generalizing lo m' with
  | nil =>
    cases m' with
    | nil => rfl
    | cons c' m' =>
      obtain ⟨hlo', hhi', -⟩ := (Memory.wfFrom_cons lo c' m').mp h'
      exact absurd rfl (Memory.not_wfFrom_above_head (m' := []) h' (hread c'.1 hlo' hhi').symm)
  | cons c m ih =>
    obtain ⟨hlo, hhi, -, htail⟩ := (Memory.wfFrom_cons lo c m).mp h
    have hc := hread c.1 hlo hhi
    cases m' with
    | nil => exact absurd rfl (Memory.not_wfFrom_above_head h hc)
    | cons c' m' =>
      obtain ⟨hlo', hhi', -, htail'⟩ := (Memory.wfFrom_cons lo c' m').mp h'
      have haddr : c.1 = c'.1 := Nat.le_antisymm
        (Memory.head_le_of_read_eq h' h (hread c'.1 hlo' hhi').symm) (Memory.head_le_of_read_eq h h' hc)
      have hbyte : c.2 = c'.2 := by rwa [Memory.read_cons_head, haddr, Memory.read_cons_head] at hc
      have hrest : m = m' := ih htail (haddr ▸ htail') fun a ha hmax => by
        have hca : c.1 < a := ha
        have hall := hread a (hlo.trans hca.le) hmax
        rwa [Memory.read_cons_of_lt hca, Memory.read_cons_of_lt (haddr ▸ hca)] at hall
      exact congrArg₂ List.cons (Prod.ext haddr hbyte) hrest

end

/-- Settles O30: `Memory.wfFrom_ext` from address 0 on. -/
theorem canonicalMemoriesThatReadAlikeAreEqual : Obligations.CanonicalMemoriesThatReadAlikeAreEqual :=
  fun _ _ _ h h' hread => Memory.wfFrom_ext h h' fun a _ => hread a

end Sys2Proof.Machine
end
